-- ==== Sys2Proof/Word.lean ====
section
/-! DEFINITION. The word of BitOps32 (00_scope.md R9). -/

namespace Sys2Proof

/-- A 32-bit two's-complement word: every port, operand and result (R9, R41, R44). `toNat` is the spec's uint, `toInt`
its sint, `getLsbD i` its `v[i]`; `+`, `-` and `<<<` wrap modulo 2^32 (R10). -/
abbrev Word := BitVec 32

end Sys2Proof
end

