-- ==== Sys2Proof/Syntax.lean ====
section
/-! DEFINITION. The 17 commands of the opcode map (30_encoding.md R62). -/

namespace Sys2Proof

/-- One constructor per row of the opcode map, in opcode order (R62). A command word holds no operand (R65): operands come
on the ports, so no constructor has a field. -/
inductive Instr where
  | getBit
  | setBit
  | clearBit
  | updateBit
  | isEven
  | isPositive
  | isPowerOfTwo
  | multiplyByTwo
  | divideByTwo
  | switchSign
  | multiply
  | multiplyUnsigned
  | countSetBits
  | bitsDiff
  | bitLength
  | fullAdder
  | toggleBit
  deriving DecidableEq, Repr

end Sys2Proof
end

