-- ==== Sys2Proof/Config.lean ====
section
/-! DEFINITION. What the spec fixes for the whole unit, and what it leaves open. -/

namespace Sys2Proof

/-- WIDTH, the word width every iteration bound uses, as a named constant (00_scope.md R6). -/
abbrev Config.width : Nat := 32

/-- The greatest legal bit position, WIDTH - 1 (00_scope.md R7). -/
abbrev Config.maxPosition : Nat := Config.width - 1

/-- How much LATENCY exceeds 1, per opcode: an open parameter of the spec (R277, U12; log 11). -/
opaque Config.latencyBeyondOne : Instr → Nat

/-- LATENCY(op), an integer of at least 1 (70_reset_and_hazards.md R277). Nothing in the model depends on it (log 11). -/
def Config.latency (i : Instr) : Nat := Config.latencyBeyondOne i + 1

/-- FREE VALUE: what the STATUS output carries while there is no response to read (R31, R272, U9; log 5). -/
opaque Config.freeStatus : Nat → Word

/-- FREE VALUE: what the RES output carries while there is no result to read: after a fault (R27, U8) and before the first
response after reset (R31, R272, U9); log 5. -/
opaque Config.freeRes : Nat → Word

end Sys2Proof
end

