-- ==== Sys2Proof/WellFormed.lean ====
section
/-! DEFINITION. When a command word is legal, as two named checks (30_encoding.md R61, R66). An `Instr` has no fields, so
every `Instr` is well formed; what can be ill formed is the word on the CMD port. -/

namespace Sys2Proof

/-- RSV = CMD[31:5] is zero (R60, R61). -/
def rsvIsZero (cmd : Word) : Bool := cmd.extractLsb' 5 27 == 0#27

/-- OPC = CMD[4:0] is one of the 17 assigned opcodes, 0x00 to 0x10 (R62, R66). -/
def opcIsAssigned (cmd : Word) : Bool := decide ((cmd.extractLsb' 0 5).toNat ≤ 0x10)

/-- The command word is legal: both checks hold (R66). -/
def wellFormedCommand (cmd : Word) : Bool := rsvIsZero cmd && opcIsAssigned cmd

end Sys2Proof
end

