-- ==== Sys2Proof/Decode.lean ====
section
/-! DEFINITION. The decoder, total on all 2^32 command words (30_encoding.md R67), and the encoder (R62). -/

namespace Sys2Proof

/-- The opcode field, OPC = CMD[4:0] (R60). -/
def opcField (cmd : Word) : BitVec 5 := cmd.extractLsb' 0 5

/-- The reserved field, RSV = CMD[31:5] (R60). -/
def rsvField (cmd : Word) : BitVec 27 := cmd.extractLsb' 5 27

/-- The operation an opcode selects, `none` for a reserved one (R62). -/
def opcodeMap (opc : Nat) : Option Instr :=
  match opc with
  | 0x00 => some .getBit
  | 0x01 => some .setBit
  | 0x02 => some .clearBit
  | 0x03 => some .updateBit
  | 0x04 => some .isEven
  | 0x05 => some .isPositive
  | 0x06 => some .isPowerOfTwo
  | 0x07 => some .multiplyByTwo
  | 0x08 => some .divideByTwo
  | 0x09 => some .switchSign
  | 0x0A => some .multiply
  | 0x0B => some .multiplyUnsigned
  | 0x0C => some .countSetBits
  | 0x0D => some .bitsDiff
  | 0x0E => some .bitLength
  | 0x0F => some .fullAdder
  | 0x10 => some .toggleBit
  | _ => none

/-- Decoding: the reserved bits first, then the opcode; `none` is ILLEGAL_COMMAND (R61, R66, R67). -/
def decode (cmd : Word) : Option Instr :=
  if rsvField cmd ≠ 0#27 then none else opcodeMap (opcField cmd).toNat

/-- The command word of an operation (R62, column "CMD word"). -/
def encode (i : Instr) : Word :=
  match i with
  | .getBit => 0x00000000#32
  | .setBit => 0x00000001#32
  | .clearBit => 0x00000002#32
  | .updateBit => 0x00000003#32
  | .isEven => 0x00000004#32
  | .isPositive => 0x00000005#32
  | .isPowerOfTwo => 0x00000006#32
  | .multiplyByTwo => 0x00000007#32
  | .divideByTwo => 0x00000008#32
  | .switchSign => 0x00000009#32
  | .multiply => 0x0000000A#32
  | .multiplyUnsigned => 0x0000000B#32
  | .countSetBits => 0x0000000C#32
  | .bitsDiff => 0x0000000D#32
  | .bitLength => 0x0000000E#32
  | .fullAdder => 0x0000000F#32
  | .toggleBit => 0x00000010#32

/-- A command of the opcode table as a number: the word is presented on CMD whole (R42), with every bit from `nbits` up
zero. No command is longer than one 32-bit word (R68), so a longer one is refused. -/
def decodeTableWord (nbits w : Nat) : Option Instr :=
  if nbits ≤ 32 then decode (BitVec.ofNat 32 (w % 2 ^ nbits)) else none

end Sys2Proof
end

