-- ==== Sys2Proof/Machine/State.lean ====
section
/-! DEFINITION. The state of the model. BitOps32 keeps no architectural state between commands (10_state.md R20), so what
stands here is its interface (R21), and the host's side: what the host does next and what it has been answered. -/

namespace Sys2Proof.Machine

/-- One command transaction's inputs: the command word and the three operand words (R21). -/
structure Request where
  cmd : Word
  a : Word
  b : Word
  c : Word
  deriving DecidableEq, Repr

/-- The fault codes of STATUS (R26, R241 to R243). -/
inductive FaultCode where
  | illegalCommand
  | invalidPosition
  | negativeOperand
  deriving DecidableEq, Repr

/-- The unit's answer to one command: a result, or a fault that carries a code and no result (R21, R27, R246). -/
inductive Response where
  | ok (res : Word)
  | fault (code : FaultCode)
  deriving DecidableEq, Repr

/-- What the host does next (log 1). -/
inductive HostEvent where
  /-- Issues a command and holds the four ports until the response (R275, R276). -/
  | command (r : Request)
  /-- Asserts and releases reset with no command in progress (R270). -/
  | reset
  /-- Issues a command and asserts reset before its response (R271). -/
  | commandReset (r : Request)
  /-- Issues a command and changes a port before its response, which R276 gives no meaning. -/
  | commandUnheld (r : Request)
  deriving DecidableEq, Repr

/-- One issued command and the response it got; none, where reset cut it off (R49, R271). -/
structure Exchange where
  request : Request
  response : Option Response
  deriving DecidableEq, Repr

/-- Why the machine stops with a fault: never. Every fault of BitOps32 is a response after which it goes on (R240, R247,
R248; log 4), so this type has no member. -/
inductive Fault where
  deriving DecidableEq, Repr

/-- Why the model refuses a step. -/
inductive Refusal where
  /-- Raised by an arm of `exec` for an instruction without a meaning. Safe: the run stops. No arm raises it. -/
  | notModelled (mnemonic : String)
  /-- Raised by `takeEvent` when the host does not hold the ports until the response. The spec gives such a run no meaning
  (R276, U11 "refuse"). Unsafe in the spec's own words, since a real unit might respond (log 7). -/
  | portsNotHeld
  deriving DecidableEq, Repr

/-- The state of the model. -/
structure State where
  /-- The input ports CMD, A, B and C, as the host last drove them (R21). -/
  ports : Request
  /-- The output ports STATUS and RES: the response they show, none before the first response after reset (R31, R272). -/
  response : Option Response
  /-- The run as the host sees it, the first command first (R20, R49, R248; log 8). -/
  record : List Exchange
  /-- What the host does from here on, the next first (R23, R49; log 1). -/
  host : List HostEvent
  /-- The model's own counter, from which the outputs' free values are drawn (log 5). -/
  freeIndex : Nat
  deriving DecidableEq, Repr

/-- Right after reset: idle, no command in progress, no response to read (R31, R270, R272). What the input ports carry and
where the free values start are the model's choice (log 3, log 5). -/
def State.reset : State where
  ports := ⟨0#32, 0#32, 0#32, 0#32⟩
  response := none
  record := []
  host := []
  freeIndex := 0

end Sys2Proof.Machine
end

