-- ==== Sys2Proof/Machine/Flags.lean ====
section
/-! DEFINITION. BitOps32 has no flags and no condition codes (10_state.md R24). What it reports beside a result is the
STATUS word of the response (R26), computed here. -/

namespace Sys2Proof.Machine

/-- The number of a fault code in STATUS.CODE (R26). -/
def faultCodeNumber (code : FaultCode) : BitVec 8 :=
  match code with
  | .illegalCommand => 0x01#8
  | .invalidPosition => 0x02#8
  | .negativeOperand => 0x03#8

/-- STATUS.CODE of a response, 0x00 for OK (R26). -/
def statusCode (r : Response) : BitVec 8 :=
  match r with
  | .ok _ => 0x00#8
  | .fault code => faultCodeNumber code

/-- The STATUS word: CODE in bits [7:0], zero in bits [31:8] (R26). -/
def statusWord (r : Response) : Word := (statusCode r).setWidth 32

end Sys2Proof.Machine
end

