-- ==== Sys2Proof/Machine/Ops.lean ====
section
/-! DEFINITION. The shared operations over the state: presenting a command, answering it with a result or a fault, reset,
and what the output ports carry. -/

namespace Sys2Proof.Machine

/-- The host drives the four input ports with a request (R21, R276). -/
def State.present (s : State) (r : Request) : State := { s with ports := r }

/-- The command on the ports completes with a response: STATUS and RES show it, and the host has it as the answer to that
command (R26, R27, R49). Nothing else changes (R20, R240). -/
def State.answer (s : State) (r : Response) : State :=
  { s with response := some r, record := s.record ++ [⟨s.ports, some r⟩] }

/-- `RES <- v`: the command completes with STATUS OK and result v (R27). -/
def complete (v : Word) (s : State) : Host.Outcome State Fault Refusal := .next (s.answer (.ok v))

/-- `raise Fault(code)`: taking a fault. The command completes with the fault's code and no result, the unit goes on (R240,
R246, R247). There is nothing to save and no vector, and no return from it (R247, R248). -/
def raiseFault (code : FaultCode) (s : State) : Host.Outcome State Fault Refusal := .next (s.answer (.fault code))

/-- Reset clears nothing, since nothing is held; afterwards STATUS and RES show no response (R270, R272; log 6). -/
def State.resetOutputs (s : State) : State := { s with response := none }

/-- Reset while the command on the ports is in progress: it gives no response (R271). -/
def State.abandon (s : State) : State :=
  { s.resetOutputs with record := s.record ++ [⟨s.ports, none⟩] }

/-- Moves on to fresh free values (log 5). -/
def State.tick (s : State) : State := { s with freeIndex := s.freeIndex + 1 }

/-- The word on the STATUS output: the response's, or any value where there is none (R26, R31, R272; log 5). -/
def State.statusOut (s : State) : Word :=
  match s.response with
  | some r => statusWord r
  | none => Config.freeStatus s.freeIndex

/-- The word on the RES output: the result, or any value after a fault and where there is no response (R27, R31, R272, U8,
U9; log 5). -/
def State.resOut (s : State) : Word :=
  match s.response with
  | some (.ok v) => v
  | some (.fault _) => Config.freeRes s.freeIndex
  | none => Config.freeRes s.freeIndex

end Sys2Proof.Machine
end

