-- ==== Sys2Proof/Machine/Operands.lean ====
section
/-! DEFINITION. How an operation reads its operands and forms its result (30_encoding.md R63 to R65), the two operand
checks (R242, R243), and the word helpers the rules share (00_scope.md section 6). -/

namespace Sys2Proof.Machine

/-- How many ports an opcode reads: A; A and B; or A, B and C (R63). -/
def portsRead (i : Instr) : Nat :=
  match i with
  | .getBit => 2
  | .setBit => 2
  | .clearBit => 2
  | .updateBit => 3
  | .isEven => 1
  | .isPositive => 1
  | .isPowerOfTwo => 1
  | .multiplyByTwo => 1
  | .divideByTwo => 1
  | .switchSign => 1
  | .multiply => 2
  | .multiplyUnsigned => 2
  | .countSetBits => 1
  | .bitsDiff => 2
  | .bitLength => 1
  | .fullAdder => 2
  | .toggleBit => 2

/-- `ONE(p)`, the word with only bit p set. -/
def one (p : Nat) : Word := 1#32 <<< p

/-- `bool01(P)`: 1 for true, 0 for false, zero-extended (R27, R65). -/
def bool01 (p : Bool) : Word := if p then 1#32 else 0#32

/-- Bit 31 is set: the word is negative read as signed (R9). -/
def isNegative (v : Word) : Bool := v.getLsbD 31

/-- `checkPos(B)`: the whole word, read as signed, must lie in [0, 31]; it is not truncated first (R44, R65, R100). The
position is then B[4:0]. -/
def checkPos (b : Word) : Option Nat :=
  if b.toInt < 0 ∨ b.toInt > (Config.maxPosition : Int) then none else some (b.extractLsb' 0 5).toNat

/-- The accessors' shape: check the position on port B, fault or complete (R100, R242, R245). -/
def withPosition (result : Nat → Word) (s : State) : Host.Outcome State Fault Refusal :=
  match checkPos s.ports.b with
  | none => raiseFault .invalidPosition s
  | some p => complete (result p) s

/-- The shape of the operations for nonnegative operands only: fault if one is negative, else complete (R243, R245). -/
def unlessNegative (negative : Bool) (result : Word) (s : State) : Host.Outcome State Fault Refusal :=
  if negative then raiseFault .negativeOperand s else complete result s

end Sys2Proof.Machine
end

