-- ==== Sys2Proof/Machine/BitAccessors.lean ====
section
/-! DEFINITION. The bit accessor unit (41_bit_accessors.md). Each result is a function of the word n and a position
already checked (R100). -/

namespace Sys2Proof.Machine

/-- `zext_32((A >>u p)[0])` (R101). -/
def getBitResult (n : Word) (p : Nat) : Word := bool01 ((n >>> p).getLsbD 0)

/-- `A | ONE(p)` (R102). -/
def setBitResult (n : Word) (p : Nat) : Word := n ||| one p

/-- `A & ~ONE(p)` (R103). -/
def clearBitResult (n : Word) (p : Nat) : Word := n &&& ~~~(one p)

/-- `(A & ~ONE(p)) | (v << p)`, where v is 1 for any nonzero value and 0 for zero (R104). -/
def updateBitResult (n : Word) (p : Nat) (value : Word) : Word :=
  (n &&& ~~~(one p)) ||| (bool01 (value != 0#32) <<< p)

/-- `A ^ ONE(p)` (R105). -/
def toggleBitResult (n : Word) (p : Nat) : Word := n ^^^ one p

/-- getBit (R101). -/
def execGetBit (s : State) : Host.Outcome State Fault Refusal := withPosition (getBitResult s.ports.a) s

/-- setBit (R102). -/
def execSetBit (s : State) : Host.Outcome State Fault Refusal := withPosition (setBitResult s.ports.a) s

/-- clearBit (R103). -/
def execClearBit (s : State) : Host.Outcome State Fault Refusal := withPosition (clearBitResult s.ports.a) s

/-- updateBit (R104); the value on port C is never checked. -/
def execUpdateBit (s : State) : Host.Outcome State Fault Refusal :=
  withPosition (fun p => updateBitResult s.ports.a p s.ports.c) s

/-- toggleBit (R105). -/
def execToggleBit (s : State) : Host.Outcome State Fault Refusal := withPosition (toggleBitResult s.ports.a) s

end Sys2Proof.Machine
end

