-- ==== Sys2Proof/Machine/BitCounting.lean ====
section
/-! DEFINITION. The population-count engine (45_bit_counting.md); every loop is bounded by the width (R203). -/

namespace Sys2Proof.Machine

/-- The count of set bits among the positions below `positions` (R200). -/
def countBelow (v : Word) (positions : Nat) : Nat :=
  match positions with
  | 0 => 0
  | i + 1 => countBelow v i + (if v.getLsbD i then 1 else 0)

/-- The count over exactly 32 positions (R200). -/
def popcount (v : Word) : Nat := countBelow v Config.width

/-- The search of R202 from candidate k: `while 2^k <= sint(A)`, at most `more` further candidates. -/
def lengthSearch (v : Word) (more k : Nat) : Nat :=
  match more with
  | 0 => k
  | more + 1 => if ((2 ^ k : Nat) : Int) ≤ v.toInt then lengthSearch v more (k + 1) else k

/-- The bit length of a nonnegative word: the search starts at 0 and is bounded by k < 31 (R202). -/
def bitLengthOf (v : Word) : Nat := lengthSearch v Config.maxPosition 0

/-- countSetBits (R200). -/
def execCountSetBits (s : State) : Host.Outcome State Fault Refusal :=
  complete (BitVec.ofNat 32 (popcount s.ports.a)) s

/-- bitsDiff (R201). -/
def execBitsDiff (s : State) : Host.Outcome State Fault Refusal :=
  complete (BitVec.ofNat 32 (popcount (s.ports.a ^^^ s.ports.b))) s

/-- bitLength (R202, R243). -/
def execBitLength (s : State) : Host.Outcome State Fault Refusal :=
  unlessNegative (isNegative s.ports.a) (BitVec.ofNat 32 (bitLengthOf s.ports.a)) s

end Sys2Proof.Machine
end

