-- ==== Sys2Proof/Machine/FullAdder.lean ====
section
/-! DEFINITION. The ripple-carry full adder (46_full_adder.md), one bit position at a time. -/

namespace Sys2Proof.Machine

/-- `sum_bit` of one position (R220). -/
def sumBit (ai bi c : Bool) : Bool := (ai ^^ bi) ^^ c

/-- `carry_out` of one position, AND binding tighter than OR (R220, R222). -/
def carryOut (ai bi c : Bool) : Bool := ((ai ^^ bi) && c) || (ai && bi)

/-- The carry into position i; the carry into bit 0 is 0 (R220). -/
def carryInto (a b : Word) (i : Nat) : Bool :=
  match i with
  | 0 => false
  | i + 1 => carryOut (a.getLsbD i) (b.getLsbD i) (carryInto a b i)

/-- The sum accumulated over the positions below `positions` (R220). -/
def rippleSum (a b : Word) (positions : Nat) : Word :=
  match positions with
  | 0 => 0#32
  | i + 1 =>
    rippleSum a b i ||| (bool01 (sumBit (a.getLsbD i) (b.getLsbD i) (carryInto a b i)) <<< i)

/-- The sum over all 32 positions; the carry out of bit 31 is discarded (R220). -/
def adderResult (a b : Word) : Word := rippleSum a b Config.width

/-- fullAdder (R220). -/
def execFullAdder (s : State) : Host.Outcome State Fault Refusal :=
  complete (adderResult s.ports.a s.ports.b) s

end Sys2Proof.Machine
end

