-- ==== Sys2Proof/Machine/Predicates.lean ====
section
/-! DEFINITION. The predicate evaluators (42_predicates.md), total on every operand (R133). -/

namespace Sys2Proof.Machine

/-- Bit 0 is 0 (R130). -/
def isEven (n : Word) : Bool := !n.getLsbD 0

/-- Bit 31 is 0 and the word is not zero: zero is not positive (R131). -/
def isPositive (n : Word) : Bool := !isNegative n && n != 0#32

/-- `A & (A - 1) == 0`, kept literally: true of 0 and of INT_MIN as well (R132). -/
def isPowerOfTwo (n : Word) : Bool := (n &&& (n - 1#32)) == 0#32

/-- isEven (R130). -/
def execIsEven (s : State) : Host.Outcome State Fault Refusal := complete (bool01 (isEven s.ports.a)) s

/-- isPositive (R131). -/
def execIsPositive (s : State) : Host.Outcome State Fault Refusal := complete (bool01 (isPositive s.ports.a)) s

/-- isPowerOfTwo (R132). -/
def execIsPowerOfTwo (s : State) : Host.Outcome State Fault Refusal := complete (bool01 (isPowerOfTwo s.ports.a)) s

end Sys2Proof.Machine
end

