-- ==== Sys2Proof/Machine/ScalingShifts.lean ====
section
/-! DEFINITION. The scaling shifts (43_scaling_shifts.md). -/

namespace Sys2Proof.Machine

/-- `A << 1`; the overflow is not reported (R150). -/
def doubled (n : Word) : Word := n <<< 1

/-- `A >>s 1`, rounding toward negative infinity (R11, R151). -/
def halved (n : Word) : Word := n.sshiftRight 1

/-- `~A + 1`; INT_MIN is its own negation (R152). -/
def negated (n : Word) : Word := ~~~n + 1#32

/-- multiplyByTwo (R150). -/
def execMultiplyByTwo (s : State) : Host.Outcome State Fault Refusal := complete (doubled s.ports.a) s

/-- divideByTwo (R151). -/
def execDivideByTwo (s : State) : Host.Outcome State Fault Refusal := complete (halved s.ports.a) s

/-- switchSign (R152). -/
def execSwitchSign (s : State) : Host.Outcome State Fault Refusal := complete (negated s.ports.a) s

end Sys2Proof.Machine
end

