-- ==== Sys2Proof/Machine/Multipliers.lean ====
section
/-! DEFINITION. The multipliers (44_multiplication.md): the signed recursion, built only from the predicates and the scaling
shifts, and the shift-and-add loop. -/

namespace Sys2Proof.Machine

/-- One recursive branch's argument for b: half of b, of b - 1 or of b + 1, so that the halving is exact for odd b (R170). -/
def nextMultiplier (b : Word) : Word :=
  if isEven b then halved b else if isPositive b then halved (b - 1#32) else halved (b + 1#32)

/-- What one recursive branch adds to the result of its call: nothing, a, or the negation of a (R170). -/
def partialProduct (a b : Word) : Word :=
  if isEven b then 0#32 else if isPositive b then a else 0#32 - a

/-- What a run of a multiplier gives: the product, and how many steps it took. The steps are not observable (R29); they are
counted where the rules count them (R172, R173, R176). -/
structure MulRun where
  product : Word
  steps : Nat
  deriving DecidableEq, Repr

/-- The recursion `mul(a, b)` of R170 on a number of calls, its steps the non-base calls (R172). The base case is tested
first. Calls never run out: 33 are enough for every operand pair (R172; log 9). -/
def mulRec (calls : Nat) (a b : Word) : MulRun :=
  match calls with
  | 0 => ⟨0#32, 0⟩
  | calls + 1 =>
    if a = 0#32 ∨ b = 0#32 then ⟨0#32, 0⟩
    else
      let inner := mulRec calls (doubled a) (nextMultiplier b)
      ⟨inner.product + partialProduct a b, inner.steps + 1⟩

/-- The number of calls the recursion is given: 32 non-base steps and the base call (R8, R172). -/
abbrev mulCalls : Nat := Config.width + 1

/-- The loop form of the multiply, on a number of iterations: each adds the partial product to acc, doubles x and takes the
next y (R173). Its steps are the iterations it runs. -/
def mulLoop (iterations : Nat) (acc x y : Word) : MulRun :=
  match iterations with
  | 0 => ⟨acc, 0⟩
  | iterations + 1 =>
    if x = 0#32 ∨ y = 0#32 then ⟨acc, 0⟩
    else
      let rest := mulLoop iterations (acc + partialProduct x y) (doubled x) (nextMultiplier y)
      ⟨rest.product, rest.steps + 1⟩

/-- The shift-and-add loop of R175 from index i: at most `cap` further iterations, each consuming the low bit of y by a
logical shift; it ends when y is 0 or i has reached WIDTH. Its steps are the iterations it runs (R176). -/
def shiftAndAdd (x : Word) (cap i : Nat) (y acc : Word) : MulRun :=
  match cap with
  | 0 => ⟨acc, 0⟩
  | cap + 1 =>
    if y = 0#32 then ⟨acc, 0⟩
    else
      let rest := shiftAndAdd x cap (i + 1) (y >>> 1) (if y.getLsbD 0 then acc + (x <<< i) else acc)
      ⟨rest.product, rest.steps + 1⟩

/-- The signed product as the recursion gives it (R170). -/
def mulResult (a b : Word) : Word := (mulRec mulCalls a b).product

/-- The product of nonnegative words as the loop gives it, capped at WIDTH iterations (R175). -/
def umulResult (x y : Word) : Word := (shiftAndAdd x Config.width 0 y 0#32).product

/-- multiply (R170, R174). -/
def execMultiply (s : State) : Host.Outcome State Fault Refusal := complete (mulResult s.ports.a s.ports.b) s

/-- multiplyUnsigned (R175, R243). -/
def execMultiplyUnsigned (s : State) : Host.Outcome State Fault Refusal :=
  unlessNegative (isNegative s.ports.a || isNegative s.ports.b) (umulResult s.ports.a s.ports.b) s

end Sys2Proof.Machine
end

