-- ==== Sys2Proof/Machine/Dispatch.lean ====
section
/-! DEFINITION. One arm per command of the opcode map (30_encoding.md R62); the operands are on the ports of the state. -/

namespace Sys2Proof.Machine

def exec (i : Instr) (s : State) : Host.Outcome State Fault Refusal :=
  match i with
  | .getBit => Sys2Proof.Machine.execGetBit s
  | .setBit => Sys2Proof.Machine.execSetBit s
  | .clearBit => Sys2Proof.Machine.execClearBit s
  | .updateBit => Sys2Proof.Machine.execUpdateBit s
  | .isEven => Sys2Proof.Machine.execIsEven s
  | .isPositive => Sys2Proof.Machine.execIsPositive s
  | .isPowerOfTwo => Sys2Proof.Machine.execIsPowerOfTwo s
  | .multiplyByTwo => Sys2Proof.Machine.execMultiplyByTwo s
  | .divideByTwo => Sys2Proof.Machine.execDivideByTwo s
  | .switchSign => Sys2Proof.Machine.execSwitchSign s
  | .multiply => Sys2Proof.Machine.execMultiply s
  | .multiplyUnsigned => Sys2Proof.Machine.execMultiplyUnsigned s
  | .countSetBits => Sys2Proof.Machine.execCountSetBits s
  | .bitsDiff => Sys2Proof.Machine.execBitsDiff s
  | .bitLength => Sys2Proof.Machine.execBitLength s
  | .fullAdder => Sys2Proof.Machine.execFullAdder s
  | .toggleBit => Sys2Proof.Machine.execToggleBit s

end Sys2Proof.Machine
end

