-- ==== Sys2Proof/Machine/Issue.lean ====
section
/-! DEFINITION. What one host event does to the unit (log 1): a command is decoded and executed, or answered
ILLEGAL_COMMAND (60_exceptions.md R245); reset (70_reset_and_hazards.md R270, R271). -/

namespace Sys2Proof.Machine

/-- One command transaction, from request to response, as one step: the command word is checked first (R245), then the
command runs on the operands as issued (R45, R276). -/
def issue (r : Request) (s : State) : Host.Outcome State Fault Refusal :=
  match decode r.cmd with
  | none => raiseFault .illegalCommand (s.present r)
  | some i => exec i (s.present r)

/-- One host event. -/
def takeEvent (e : HostEvent) (s : State) : Host.Outcome State Fault Refusal :=
  match e with
  | .command r => issue r s
  | .reset => .next s.resetOutputs
  | .commandReset r => .next (s.present r).abandon
  | .commandUnheld _ => .refused .portsNotHeld

/-- One step of the unit: with nothing from the host it is idle (R270; log 2), else it takes the next event. Every step
moves on to fresh free values (log 5). -/
def runNext (s : State) : Host.Outcome State Fault Refusal :=
  match s.host with
  | [] => .next s.tick
  | e :: rest => takeEvent e { s.tick with host := rest }

/-- The state with the command word `w` as the host's next command, its operands what the ports carry now (log 1). -/
def placeCommand (s : State) (w : Word) : State :=
  { s with host := .command { s.ports with cmd := w } :: s.host }

end Sys2Proof.Machine
end

