-- ==== Sys2Proof/Machine/Step.lean ====
section
/-! DEFINITION. The step of the model, and the host pipeline's way to place a command before it. -/

namespace Sys2Proof.Machine

/-- One step: the unit takes what the host does next (70_reset_and_hazards.md R275), or is idle. -/
def step (s : State) : Host.Outcome State Fault Refusal := runNext s

/-- `s` with the command of the opcode table whose bits are `w` issued next; every bit from `nbits` up is zero (log 1). -/
def State.withFetchWord (s : State) (nbits w : Nat) : State := placeCommand s (BitVec.ofNat 32 (w % 2 ^ nbits))

end Sys2Proof.Machine
end

