-- ==== Sys2Proof/Machine/Assembler.lean ====
section
/-! DEFINITION. The assembly text of a command (30_encoding.md R69): one line, as a list of characters, to the request it
denotes. There are no pseudo-instructions (R70). -/

namespace Sys2Proof.Machine

/-- The mnemonic of R62, in the source's spelling. -/
def mnemonicOf (i : Instr) : String :=
  match i with
  | .getBit => "getBit"
  | .setBit => "setBit"
  | .clearBit => "clearBit"
  | .updateBit => "updateBit"
  | .isEven => "isEven"
  | .isPositive => "isPositive"
  | .isPowerOfTwo => "isPowerOfTwo"
  | .multiplyByTwo => "multiplyByTwo"
  | .divideByTwo => "divideByTwo"
  | .switchSign => "switchSign"
  | .multiply => "multiply"
  | .multiplyUnsigned => "multiplyUnsigned"
  | .countSetBits => "countSetBits"
  | .bitsDiff => "bitsDiff"
  | .bitLength => "bitLength"
  | .fullAdder => "fullAdder"
  | .toggleBit => "toggleBit"

/-- The 17 commands in opcode order (R62). -/
def allInstrs : List Instr :=
  [.getBit, .setBit, .clearBit, .updateBit, .isEven, .isPositive, .isPowerOfTwo, .multiplyByTwo, .divideByTwo] ++
  [.switchSign, .multiply, .multiplyUnsigned, .countSetBits, .bitsDiff, .bitLength, .fullAdder, .toggleBit]

/-- What a line of assembly text is. -/
inductive AsmLine where
  /-- Nothing but white space and a comment. -/
  | blank
  /-- A command, as the four words the assembler drives. -/
  | command (r : Request)
  /-- Not a line of R69. -/
  | error
  deriving DecidableEq, Repr

/-- White space between the parts of a line: a space or a tab (log 12). -/
def isBlankChar (c : Char) : Bool := c == ' ' || c == '\t'

/-- A text without its leading and trailing white space. -/
def trimBlanks (cs : List Char) : List Char :=
  ((cs.dropWhile isBlankChar).reverse.dropWhile isBlankChar).reverse

/-- The parts of a text between its commas. -/
def splitCommas (cs : List Char) : List (List Char) :=
  match cs with
  | [] => [[]]
  | c :: rest =>
    if c = ',' then [] :: splitCommas rest
    else match splitCommas rest with
      | [] => [[c]]
      | first :: others => (c :: first) :: others

/-- The digits in order of their values; a base uses the first that many. -/
def digitChars : List Char := "0123456789abcdef".toList

/-- The value of a digit of a base of at most 16: its place among the digits. A letter may be in either case (log 12). -/
def digitOf (base : Nat) (c : Char) : Option Nat := (digitChars.take base).findIdx? (fun d => d == c.toLower)

/-- The number written by digits of a base, the most significant first; `none` where a character is no such digit. -/
def digitsValue (base : Nat) (cs : List Char) : Option Nat :=
  cs.foldlM (fun n c => (digitOf base c).map (fun d => n * base + d)) 0

/-- A decimal literal's value as a word; it must lie in [-2^31, 2^31 - 1] (R69). -/
def decimalWord (negative : Bool) (digits : List Char) : Option Word :=
  if digits.isEmpty then none
  else match digitsValue 10 digits with
    | none => none
    | some n =>
      if negative then (if n ≤ 2 ^ 31 then some (BitVec.ofInt 32 (-(n : Int))) else none)
      else if n < 2 ^ 31 then some (BitVec.ofNat 32 n) else none

/-- A hexadecimal literal's word: 1 to 8 digits, which denote the word directly (R69). -/
def hexWord (digits : List Char) : Option Word :=
  if digits.isEmpty || decide (8 < digits.length) then none
  else (digitsValue 16 digits).map (BitVec.ofNat 32)

/-- An integer literal (R69). -/
def literal (cs : List Char) : Option Word :=
  match cs with
  | '0' :: 'x' :: digits => hexWord digits
  | '-' :: digits => decimalWord true digits
  | digits => decimalWord false digits

/-- The operands of a line: none, or literals separated by commas (R69). -/
def operandWords (cs : List Char) : Option (List Word) :=
  if (trimBlanks cs).isEmpty then some [] else (splitCommas cs).mapM (fun part => literal (trimBlanks part))

/-- The request of a mnemonic and its operands, which are exactly those of the ports the opcode reads, in the order A, B,
C; a port it does not read is driven with zero (R69). -/
def requestOf (i : Instr) (operands : List Word) : Option Request :=
  match portsRead i, operands with
  | 1, [a] => some ⟨encode i, a, 0#32, 0#32⟩
  | 2, [a, b] => some ⟨encode i, a, b, 0#32⟩
  | 3, [a, b, c] => some ⟨encode i, a, b, c⟩
  | _, _ => none

/-- The request of the directive `.cmd W, A, B, C` (R69). -/
def rawRequest (operands : List Word) : Option Request :=
  match operands with
  | [w, a, b, c] => some ⟨w, a, b, c⟩
  | _ => none

/-- The request a name and its operands denote: a mnemonic exactly as R62 writes it, or the directive (R69). -/
def namedRequest (name : List Char) (operands : List Word) : Option Request :=
  if name = ".cmd".toList then rawRequest operands
  else match allInstrs.find? (fun i => (mnemonicOf i).toList == name) with
    | none => none
    | some i => requestOf i operands

/-- One line of assembly text; a comment runs from `;` to its end (R69). -/
def assembleLine (line : List Char) : AsmLine :=
  let text := trimBlanks (line.takeWhile (fun c => c != ';'))
  if text.isEmpty then .blank
  else match operandWords (text.dropWhile (fun c => !isBlankChar c)) with
    | none => .error
    | some operands =>
      match namedRequest (text.takeWhile (fun c => !isBlankChar c)) operands with
      | none => .error
      | some r => .command r

end Sys2Proof.Machine
end

