-- ==== Sys2Proof/Safety.lean ====
section
/-! DEFINITION. The terms the claims use: the response the rules give a request, in closed form and independent of the
meanings; what a true record of a run is; the state at which a command runs. -/

namespace Sys2Proof.Safety

open Sys2Proof.Machine

/-- The position on port B is in [0, 31], read as a signed word (00_scope.md R7; 41_bit_accessors.md R100). -/
abbrev LegalPosition (b : Word) : Prop := 0 ≤ b.toInt ∧ b.toInt ≤ 31

/-- The position is outside [0, 31] (60_exceptions.md R242). -/
abbrev IllegalPosition (b : Word) : Prop := b.toInt < 0 ∨ 31 < b.toInt

/-- The word with only bit p set, p the position on port B. -/
def bitAt (b : Word) : Word := BitVec.ofNat 32 (2 ^ b.toNat)

/-- A condition as the word 1 or 0 (10_state.md R27). -/
def truth (p : Prop) [Decidable p] : Word := if p then 1#32 else 0#32

/-- A result under a condition, else a fault. -/
def guarded (p : Prop) [Decidable p] (v : Word) (code : FaultCode) : Response := if p then .ok v else .fault code

/-- The number of positions in [0, 31] at which a property holds. -/
def countPositions (p : Nat → Bool) : Nat := ((List.range 32).filter p).length

/-- The least k in [0, 31] with n < 2^k; 31 where there is none (45_bit_counting.md R202). -/
def leastLength (n : Nat) : Nat := ((List.range 32).find? (fun k => decide (n < 2 ^ k))).getD 31

/-- The response of an operation to the words on A, B and C, by the closed form of its rule (10_state.md R29). -/
def resultOf (i : Instr) (a b c : Word) : Response :=
  match i with
  | .getBit => guarded (LegalPosition b) (truth (a.getLsbD b.toNat = true)) .invalidPosition
  | .setBit => guarded (LegalPosition b) (a ||| bitAt b) .invalidPosition
  | .clearBit => guarded (LegalPosition b) (a &&& ~~~(bitAt b)) .invalidPosition
  | .updateBit =>
    guarded (LegalPosition b) (if c = 0#32 then a &&& ~~~(bitAt b) else a ||| bitAt b) .invalidPosition
  | .toggleBit => guarded (LegalPosition b) (a ^^^ bitAt b) .invalidPosition
  | .isEven => .ok (truth (a.toInt % 2 = 0))
  | .isPositive => .ok (truth (0 < a.toInt))
  | .isPowerOfTwo => .ok (truth (a = 0#32 ∨ (List.range 32).any (fun k => a == BitVec.ofNat 32 (2 ^ k)) = true))
  | .multiplyByTwo => .ok (BitVec.ofInt 32 (2 * a.toInt))
  | .divideByTwo => .ok (BitVec.ofInt 32 (a.toInt / 2))
  | .switchSign => .ok (BitVec.ofInt 32 (-a.toInt))
  | .multiply => .ok (BitVec.ofInt 32 (a.toInt * b.toInt))
  | .multiplyUnsigned =>
    guarded (0 ≤ a.toInt ∧ 0 ≤ b.toInt) (BitVec.ofNat 32 (a.toNat * b.toNat)) .negativeOperand
  | .countSetBits => .ok (BitVec.ofNat 32 (countPositions (fun k => a.getLsbD k)))
  | .bitsDiff => .ok (BitVec.ofNat 32 (countPositions (fun k => a.getLsbD k != b.getLsbD k)))
  | .bitLength => guarded (0 ≤ a.toInt) (BitVec.ofNat 32 (leastLength a.toNat)) .negativeOperand
  | .fullAdder => .ok (BitVec.ofInt 32 (a.toInt + b.toInt))

/-- The response to a request: ILLEGAL_COMMAND first, then the operation's own (60_exceptions.md R245). -/
def responseOf (r : Request) : Response :=
  match decode r.cmd with
  | none => .fault .illegalCommand
  | some i => resultOf i r.a r.b r.c

/-- The operation answers `v` with STATUS OK on these operands, in every state: it completes, and nothing but the outputs
and the host's record of the answer is touched. -/
def Yields (i : Instr) (a b c v : Word) : Prop :=
  ∀ s : State, s.ports.a = a → s.ports.b = b → s.ports.c = c → exec i s = .next (s.answer (.ok v))

/-- The state at which a command runs: its request is on the ports, it has left the host's list, and the free values have
moved on. -/
def atIssue (s : State) (r : Request) (rest : List HostEvent) : State :=
  { s with ports := r, host := rest, freeIndex := s.freeIndex + 1 }

/-- The word is reserved: RSV is not zero, or OPC is in 0x11 to 0x1F (30_encoding.md R66). -/
abbrev ReservedWord (cmd : Word) : Prop := cmd.extractLsb' 5 27 ≠ 0#27 ∨ 0x11#5 ≤ cmd.extractLsb' 0 5

/-- Every command of the record got the response the rules give its request, or none because reset cut it off. -/
def RecordIsTrue (s : State) : Prop :=
  ∀ e ∈ s.record, e.response = none ∨ e.response = some (responseOf e.request)

/-- The outputs show the response of the last command issued, or none. -/
def OutputsAreLast (s : State) : Prop :=
  ∀ r, s.response = some r → ∃ e, s.record.getLast? = some e ∧ e.response = some r

/-- The invariant of a run. -/
def Inv (s : State) : Prop := RecordIsTrue s ∧ OutputsAreLast s

end Sys2Proof.Safety
end

