-- ==== Sys2Proof/Certificates/Slice0/Obligations.lean ====
section
/-! DEFINITION. The statements for the provers. Each `exec i s = .next (s.answer r)` says that the instruction completes with
response r, and that only the outputs and the host's record of this answer change (10_state.md R20). The host's list of
events (log 1), its record (log 8) and the counter of free values (log 5), which `atIssue` moves on, are the model's own. -/

open Sys2Proof Sys2Proof.Machine Sys2Proof.Safety

/-! ## Encoding -/

/-- R62, R67: a word decodes to an operation exactly when it is that operation's word, over all 2^32 words. -/
def Obligations.DecodeInvertsEncodeOnEveryWord : Prop :=
  ∀ (cmd : Word) (i : Instr), decode cmd = some i ↔ cmd = encode i

/-- R62: the opcode map, each word written out. -/
def Obligations.OpcodeMapWordsDecode : Prop :=
  decode 0x00000000#32 = some .getBit ∧ decode 0x00000001#32 = some .setBit ∧
  decode 0x00000002#32 = some .clearBit ∧ decode 0x00000003#32 = some .updateBit ∧
  decode 0x00000004#32 = some .isEven ∧ decode 0x00000005#32 = some .isPositive ∧
  decode 0x00000006#32 = some .isPowerOfTwo ∧ decode 0x00000007#32 = some .multiplyByTwo ∧
  decode 0x00000008#32 = some .divideByTwo ∧ decode 0x00000009#32 = some .switchSign ∧
  decode 0x0000000A#32 = some .multiply ∧ decode 0x0000000B#32 = some .multiplyUnsigned ∧
  decode 0x0000000C#32 = some .countSetBits ∧ decode 0x0000000D#32 = some .bitsDiff ∧
  decode 0x0000000E#32 = some .bitLength ∧ decode 0x0000000F#32 = some .fullAdder ∧
  decode 0x00000010#32 = some .toggleBit ∧
  ∀ k : Fin 15, decode (BitVec.ofNat 32 (0x11 + k.val)) = none

/-- R61, R66, R241: the reserved words and no others are illegal; each is answered ILLEGAL_COMMAND with any operands, and
nothing else of the state changes. -/
def Obligations.ReservedWordsAreIllegalCommands : Prop :=
  (∀ cmd : Word, decode cmd = none ↔ ReservedWord cmd) ∧
  (∀ cmd : Word, ReservedWord cmd ∨ ∃ i, cmd = encode i ∧ decode cmd = some i) ∧
  statusWord (.fault .illegalCommand) = 0x00000001#32 ∧
  ∀ (s : State) (r : Request) (rest : List HostEvent), s.host = .command r :: rest → ReservedWord r.cmd →
    step s = .next ((atIssue s r rest).answer (.fault .illegalCommand))

/-! ## The step -/

/-- R245, R275: a step at a legal command is exec of the decoded operation, with the request on the ports. -/
def Obligations.StepRunsTheDecodedCommand : Prop :=
  ∀ (s : State) (r : Request) (rest : List HostEvent) (i : Instr),
    s.host = .command r :: rest → decode r.cmd = some i → step s = exec i (atIssue s r rest)

/-- The model's choice (log 2; R270 says the unit is idle): with nothing from the host the unit is idle; only the free values move on. -/
def Obligations.IdleStepChangesNothing : Prop :=
  ∀ s : State, s.host = [] → step s = .next { s with freeIndex := s.freeIndex + 1 }

/-- R31, R270, R272: right after reset there is no response to read and any legal command runs. That the record and the
host's list are empty then is the model's choice of those fields' reset values (log 1 and log 8). -/
def Obligations.ResetIsIdleAndReady : Prop :=
  State.reset.response = none ∧ State.reset.record = [] ∧ State.reset.host = [] ∧
  ∀ (r : Request) (rest : List HostEvent) (i : Instr), decode r.cmd = some i →
    step { State.reset with host := .command r :: rest } = exec i (atIssue State.reset r rest)

/-- R270, R272: a reset with no command in progress leaves no response to read and touches nothing else (that
ports and record persist is the model's reading, log 6). -/
def Obligations.ResetEventLeavesNoResponse : Prop :=
  ∀ (s : State) (rest : List HostEvent), s.host = .reset :: rest →
    step s = .next { s with response := none, host := rest, freeIndex := s.freeIndex + 1 }

/-- R271: a command cut off by reset gives no response; issued again, it gives the response it would have given. The first
clause is the whole step: that the ports keep the request, that the host's record holds the command with no response, that
the event is taken and that the counter moves on are the model's (log 6, log 8, log 1 and log 5). -/
def Obligations.CommandCutOffByResetMayBeReissued : Prop :=
  (∀ (s : State) (r : Request) (rest : List HostEvent), s.host = .commandReset r :: rest →
    step s = .next { s with
      ports := r, response := none, record := s.record ++ [⟨r, none⟩], host := rest, freeIndex := s.freeIndex + 1 }) ∧
  ∀ (s : State) (r : Request) (rest : List HostEvent), s.host = .commandReset r :: .command r :: rest →
    ∃ t u v : State,
      step s = .next t ∧ t.response = none ∧
      step t = .next u ∧ step { s with host := .command r :: rest } = .next v ∧
      u.response = v.response ∧ v.response ≠ none

/-- R276 and log 7 (the model's choice of a refusal): a run in which the host does not hold the ports has no meaning. -/
def Obligations.UnheldPortsAreRefused : Prop :=
  ∀ (s : State) (r : Request) (rest : List HostEvent), s.host = .commandUnheld r :: rest →
    step s = .refused .portsNotHeld

/-- R244, R276: the unit never stops but for a host that does not hold the ports (a refusal that is the model's choice,
log 7). -/
def Obligations.OnlyUnheldPortsStopTheUnit : Prop :=
  ∀ s : State, (∃ t, step s = .next t) ∨
    ∃ r rest, s.host = .commandUnheld r :: rest ∧ step s = .refused .portsNotHeld

/-- The frame of a step. That the host's events are a list of which a step takes the first (log 1), that a counter of free
values moves on by one (log 5), and that the record is a list of exchanges to which a step adds at most one (log 8) are the
model's; R275 says that there is one command at a time, R49 that the k-th response is the k-th command's. -/
def Obligations.StepTakesOneEvent : Prop :=
  ∀ s t : State, step s = .next t →
    t.host = s.host.tail ∧ t.freeIndex = s.freeIndex + 1 ∧
    (t.record = s.record ∨ ∃ e, t.record = s.record ++ [e])

/-- R20, R240, R247: the frame of all 17 operations. Each completes, and the input ports, what the host does next and the
free values are unchanged; the record grows by this command and its response, which the outputs show. -/
def Obligations.ExecChangesOnlyTheResponse : Prop :=
  ∀ (i : Instr) (s : State), ∃ (t : State) (r : Response), exec i s = .next t ∧
    t.ports = s.ports ∧ t.host = s.host ∧ t.freeIndex = s.freeIndex ∧
    t.response = some r ∧ t.record = s.record ++ [⟨s.ports, some r⟩]

/-! ## Bit accessors -/

/-- R101. -/
def Obligations.GetBitReadsTheBit : Prop :=
  decode 0x00000000#32 = some .getBit ∧ ∀ s : State,
    (LegalPosition s.ports.b →
      exec .getBit s = .next (s.answer (.ok (if s.ports.a.getLsbD s.ports.b.toNat then 1#32 else 0#32)))) ∧
    (IllegalPosition s.ports.b → exec .getBit s = .next (s.answer (.fault .invalidPosition)))

/-- R102. -/
def Obligations.SetBitForcesTheBitToOne : Prop :=
  decode 0x00000001#32 = some .setBit ∧ ∀ s : State,
    (LegalPosition s.ports.b →
      exec .setBit s = .next (s.answer (.ok (s.ports.a ||| BitVec.ofNat 32 (2 ^ s.ports.b.toNat))))) ∧
    (IllegalPosition s.ports.b → exec .setBit s = .next (s.answer (.fault .invalidPosition)))

/-- R103. -/
def Obligations.ClearBitForcesTheBitToZero : Prop :=
  decode 0x00000002#32 = some .clearBit ∧ ∀ s : State,
    (LegalPosition s.ports.b →
      exec .clearBit s = .next (s.answer (.ok (s.ports.a &&& ~~~(BitVec.ofNat 32 (2 ^ s.ports.b.toNat)))))) ∧
    (IllegalPosition s.ports.b → exec .clearBit s = .next (s.answer (.fault .invalidPosition)))

/-- R104: any nonzero value on C counts as 1, and C is never checked. -/
def Obligations.UpdateBitWritesTheTruthValue : Prop :=
  decode 0x00000003#32 = some .updateBit ∧ ∀ s : State,
    (LegalPosition s.ports.b → s.ports.c = 0#32 →
      exec .updateBit s = .next (s.answer (.ok (s.ports.a &&& ~~~(BitVec.ofNat 32 (2 ^ s.ports.b.toNat)))))) ∧
    (LegalPosition s.ports.b → s.ports.c ≠ 0#32 →
      exec .updateBit s = .next (s.answer (.ok (s.ports.a ||| BitVec.ofNat 32 (2 ^ s.ports.b.toNat))))) ∧
    (IllegalPosition s.ports.b → exec .updateBit s = .next (s.answer (.fault .invalidPosition)))

/-- R105. -/
def Obligations.ToggleBitInvertsTheBit : Prop :=
  decode 0x00000010#32 = some .toggleBit ∧ ∀ s : State,
    (LegalPosition s.ports.b →
      exec .toggleBit s = .next (s.answer (.ok (s.ports.a ^^^ BitVec.ofNat 32 (2 ^ s.ports.b.toNat))))) ∧
    (IllegalPosition s.ports.b → exec .toggleBit s = .next (s.answer (.fault .invalidPosition)))

/-- R106: the seven laws, each run through exec, for every word, position and values on the ports not read. -/
def Obligations.AccessorsAgree : Prop :=
  ∀ (n c c' : Word) (p : Nat), p < 32 →
    (∃ v, Yields .setBit n (BitVec.ofNat 32 p) c v ∧ Yields .getBit v (BitVec.ofNat 32 p) c' 1#32) ∧
    (∃ v, Yields .clearBit n (BitVec.ofNat 32 p) c v ∧ Yields .getBit v (BitVec.ofNat 32 p) c' 0#32) ∧
    (∃ v, Yields .updateBit n (BitVec.ofNat 32 p) c v ∧
      Yields .getBit v (BitVec.ofNat 32 p) c' (if c ≠ 0#32 then 1#32 else 0#32)) ∧
    (∃ v w, Yields .setBit n (BitVec.ofNat 32 p) c v ∧ Yields .clearBit v (BitVec.ofNat 32 p) c' w ∧
      w.getLsbD p = false) ∧
    (∃ v w, Yields .clearBit n (BitVec.ofNat 32 p) c v ∧ Yields .setBit v (BitVec.ofNat 32 p) c' w ∧
      w.getLsbD p = true) ∧
    (∃ v g, Yields .toggleBit n (BitVec.ofNat 32 p) c v ∧ Yields .getBit n (BitVec.ofNat 32 p) c g ∧
      Yields .getBit v (BitVec.ofNat 32 p) c' (1#32 - g)) ∧
    (∃ v, Yields .toggleBit n (BitVec.ofNat 32 p) c v ∧ Yields .toggleBit v (BitVec.ofNat 32 p) c' n)

/-- R107: no bit but bit p changes. -/
def Obligations.AccessorsChangeNoOtherBit : Prop :=
  ∀ (i : Instr) (n c : Word) (p : Nat), (i = .setBit ∨ i = .clearBit ∨ i = .updateBit ∨ i = .toggleBit) → p < 32 →
    ∃ v, Yields i n (BitVec.ofNat 32 p) c v ∧ ∀ q, q < 32 → q ≠ p → v.getLsbD q = n.getLsbD q

/-! ## Faults -/

/-- R242: INVALID_POSITION has exactly this cause. -/
def Obligations.InvalidPositionHasOneCause : Prop :=
  statusWord (.fault .invalidPosition) = 0x00000002#32 ∧ ∀ (i : Instr) (s : State), exec i s = .next (s.answer (.fault .invalidPosition)) ↔
    (i = .getBit ∨ i = .setBit ∨ i = .clearBit ∨ i = .updateBit ∨ i = .toggleBit) ∧
      (s.ports.b.toInt < 0 ∨ 31 < s.ports.b.toInt)

/-- R243: NEGATIVE_OPERAND has exactly these causes. -/
def Obligations.NegativeOperandHasTwoCauses : Prop :=
  statusWord (.fault .negativeOperand) = 0x00000003#32 ∧ ∀ (i : Instr) (s : State), exec i s = .next (s.answer (.fault .negativeOperand)) ↔
    (i = .multiplyUnsigned ∧ (s.ports.a.getLsbD 31 = true ∨ s.ports.b.getLsbD 31 = true)) ∨
      (i = .bitLength ∧ s.ports.a.getLsbD 31 = true)

/-- R133, R174, R244: these ten operations complete with a result on every operand. -/
def Obligations.TenOperationsNeverFault : Prop :=
  ∀ (i : Instr) (s : State),
    (i = .isEven ∨ i = .isPositive ∨ i = .isPowerOfTwo ∨ i = .multiplyByTwo ∨ i = .divideByTwo ∨ i = .switchSign ∨
      i = .multiply ∨ i = .countSetBits ∨ i = .bitsDiff ∨ i = .fullAdder) →
    ∃ v, exec i s = .next (s.answer (.ok v))

/-! ## Predicates -/

/-- R130. -/
def Obligations.IsEvenIsParityOfTheSignedValue : Prop :=
  decode 0x00000004#32 = some .isEven ∧ ∀ s : State,
    exec .isEven s = .next (s.answer (.ok (if s.ports.a.getLsbD 0 = false then 1#32 else 0#32))) ∧
    (s.ports.a.getLsbD 0 = false ↔ s.ports.a.toInt % 2 = 0)

/-- R131: zero is not positive. -/
def Obligations.IsPositiveExcludesZero : Prop :=
  decode 0x00000005#32 = some .isPositive ∧ ∀ s : State,
    exec .isPositive s =
      .next (s.answer (.ok (if s.ports.a.getLsbD 31 = false ∧ s.ports.a ≠ 0#32 then 1#32 else 0#32))) ∧
    ((s.ports.a.getLsbD 31 = false ∧ s.ports.a ≠ 0#32) ↔ 0 < s.ports.a.toInt)

/-- R132: the bitwise test, true exactly of 0 and of the 32 words with one bit set. -/
def Obligations.IsPowerOfTwoHoldsOfZeroAndOneBitWords : Prop :=
  decode 0x00000006#32 = some .isPowerOfTwo ∧ ∀ s : State,
    exec .isPowerOfTwo s =
      .next (s.answer (.ok (if s.ports.a &&& (s.ports.a - 1#32) = 0#32 then 1#32 else 0#32))) ∧
    (s.ports.a &&& (s.ports.a - 1#32) = 0#32 ↔
      s.ports.a = 0#32 ∨ ∃ k, k < 32 ∧ s.ports.a = BitVec.ofNat 32 (2 ^ k))

/-! ## Scaling shifts -/

/-- R150. -/
def Obligations.MultiplyByTwoDoublesAndWraps : Prop :=
  decode 0x00000007#32 = some .multiplyByTwo ∧ ∀ s : State,
    exec .multiplyByTwo s = .next (s.answer (.ok (BitVec.ofInt 32 (2 * s.ports.a.toInt)))) ∧
    BitVec.ofInt 32 (2 * s.ports.a.toInt) = s.ports.a <<< 1

/-- R151: floor, not truncation; bit 31 is kept and bits 31 to 1 move down. -/
def Obligations.DivideByTwoRoundsDown : Prop :=
  decode 0x00000008#32 = some .divideByTwo ∧ ∀ s : State, ∃ v : Word,
    exec .divideByTwo s = .next (s.answer (.ok v)) ∧
    v.toInt = Int.fdiv s.ports.a.toInt 2 ∧
    v.getLsbD 31 = s.ports.a.getLsbD 31 ∧ ∀ k, k < 31 → v.getLsbD k = s.ports.a.getLsbD (k + 1)

/-- R152: negation, INT_MIN its own. -/
def Obligations.SwitchSignNegatesAndWraps : Prop :=
  decode 0x00000009#32 = some .switchSign ∧ ∀ s : State,
    exec .switchSign s = .next (s.answer (.ok (~~~s.ports.a + 1#32))) ∧
    ~~~s.ports.a + 1#32 = BitVec.ofInt 32 (-s.ports.a.toInt) ∧
    (s.ports.a = 0x80000000#32 → ~~~s.ports.a + 1#32 = 0x80000000#32)

/-- R153: the four laws, each run through exec, whatever the ports not read carry. -/
def Obligations.ScalingShiftLaws : Prop :=
  ∀ n b c : Word,
    (∃ v, Yields .switchSign n b c v ∧ Yields .switchSign v b c n ∧ (v = n ↔ n = 0#32 ∨ n = 0x80000000#32)) ∧
    (∃ v, Yields .divideByTwo n b c v ∧ Yields .multiplyByTwo v b c (n &&& 0xFFFFFFFE#32)) ∧
    (∃ v w, Yields .multiplyByTwo n b c v ∧ Yields .divideByTwo v b c w ∧
      (w = n ↔ n.getLsbD 31 = n.getLsbD 30))

/-! ## Multipliers -/

/-- R170: multiply answers a function of A and B that satisfies the recursion, base case first. -/
def Obligations.MultiplyFollowsTheRecursion : Prop :=
  decode 0x0000000A#32 = some .multiply ∧ ∃ mul : Word → Word → Word,
    (∀ s : State, exec .multiply s = .next (s.answer (.ok (mul s.ports.a s.ports.b)))) ∧
    ∀ a b : Word, mul a b =
      if a = 0#32 ∨ b = 0#32 then 0#32
      else if b.getLsbD 0 = false then mul (a <<< 1) (b.sshiftRight 1)
      else if 0 < b.toInt then mul (a <<< 1) ((b - 1#32).sshiftRight 1) + a
      else mul (a <<< 1) ((b + 1#32).sshiftRight 1) - a

/-- R171: the low 32 bits of the exact product, read signed or unsigned. -/
def Obligations.MultiplyIsTheWrappedProduct : Prop :=
  ∀ s : State,
    exec .multiply s = .next (s.answer (.ok (BitVec.ofInt 32 (s.ports.a.toInt * s.ports.b.toInt)))) ∧
    BitVec.ofInt 32 (s.ports.a.toInt * s.ports.b.toInt) = BitVec.ofNat 32 (s.ports.a.toNat * s.ports.b.toNat)

/-- R172: the number of non-base steps of the recursion whose product multiply answers. z is the number of trailing zero bits
of a; `Nat.size m` is the least k with m < 2^k. The run, its product and its steps, is the same however many calls are
allowed, as long as they are no fewer than its steps. -/
def Obligations.MultiplyTerminatesInTheCountedSteps : Prop :=
  ∀ a b : Word,
    (∀ s : State, s.ports.a = a → s.ports.b = b →
      exec .multiply s = .next (s.answer (.ok (mulRec 33 a b).product))) ∧
    (∀ calls, (mulRec 33 a b).steps ≤ calls → mulRec calls a b = mulRec 33 a b) ∧
    (∀ calls, calls < (mulRec 33 a b).steps → (mulRec calls a b).steps = calls) ∧
    (a = 0#32 ∨ b = 0#32 → (mulRec 33 a b).steps = 0) ∧
    (∀ z, b ≠ 0#32 → z < 32 → a.getLsbD z = true → (∀ j, j < z → a.getLsbD j = false) →
      (mulRec 33 a b).steps = min (Nat.size b.toInt.natAbs) (32 - z)) ∧
    (mulRec 33 a b).steps ≤ 32 ∧
    ((mulRec 33 a b).steps = 32 ↔ b = 0x80000000#32 ∧ a.getLsbD 0 = true) ∧
    (0 < b.toInt → (mulRec 33 a b).steps ≤ 31)

/-- R173: for every operand pair the loop form gives the product that multiply answers, in exactly the steps of the
recursion; given more iterations than those, it stops there. -/
def Obligations.MultiplyLoopGivesTheSameResult : Prop :=
  ∀ (s : State) (iterations : Nat), (mulRec 33 s.ports.a s.ports.b).steps ≤ iterations →
    mulLoop iterations 0#32 s.ports.a s.ports.b = mulRec 33 s.ports.a s.ports.b ∧
    exec .multiply s = .next (s.answer (.ok (mulLoop iterations 0#32 s.ports.a s.ports.b).product))

/-- R175: x << i summed over the set bits i of y, for nonnegative operands; a fault otherwise. -/
def Obligations.MultiplyUnsignedShiftsAndAdds : Prop :=
  decode 0x0000000B#32 = some .multiplyUnsigned ∧ ∀ s : State,
    (0 ≤ s.ports.a.toInt → 0 ≤ s.ports.b.toInt →
      exec .multiplyUnsigned s = .next (s.answer (.ok
        (((List.range 32).filter (fun k => s.ports.b.getLsbD k)).foldl (fun acc k => acc + (s.ports.a <<< k)) 0#32)))) ∧
    (s.ports.a.toInt < 0 ∨ s.ports.b.toInt < 0 →
      exec .multiplyUnsigned s = .next (s.answer (.fault .negativeOperand)))

/-- R176: for nonnegative operands the low 32 bits of the exact product, as multiply gives it; the loop runs as often as y
has significant bits, and more iterations allowed change nothing. Read as integers the law x * y holds exactly below
2^31. -/
def Obligations.MultiplyUnsignedAgreesWithMultiply : Prop :=
  ∀ x y c : Word, 0 ≤ x.toInt → 0 ≤ y.toInt →
    Yields .multiplyUnsigned x y c (BitVec.ofNat 32 (x.toNat * y.toNat)) ∧
    Yields .multiply x y c (BitVec.ofNat 32 (x.toNat * y.toNat)) ∧
    (∀ cap, Nat.size y.toNat ≤ cap →
      shiftAndAdd x cap 0 y 0#32 = ⟨BitVec.ofNat 32 (x.toNat * y.toNat), Nat.size y.toNat⟩) ∧
    ((BitVec.ofNat 32 (x.toNat * y.toNat)).toInt = x.toInt * y.toInt ↔ x.toNat * y.toNat < 2 ^ 31)

/-! ## Population count -/

/-- R200: the number of set bits among the 32 positions; 32 only for the word of all ones. -/
def Obligations.CountSetBitsCountsThePositions : Prop :=
  decode 0x0000000C#32 = some .countSetBits ∧ ∀ s : State, ∃ cnt : Nat,
    exec .countSetBits s = .next (s.answer (.ok (BitVec.ofNat 32 cnt))) ∧
    cnt = ((List.range 32).filter (fun k => s.ports.a.getLsbD k)).length ∧ cnt ≤ 32 ∧
    (cnt = 32 ↔ s.ports.a = 0xFFFFFFFF#32)

/-- R201: the number of positions at which the operands differ; symmetric, and zero for equal operands. -/
def Obligations.BitsDiffIsTheHammingDistance : Prop :=
  decode 0x0000000D#32 = some .bitsDiff ∧ ∀ s : State, ∃ cnt : Nat,
    exec .bitsDiff s = .next (s.answer (.ok (BitVec.ofNat 32 cnt))) ∧
    cnt = ((List.range 32).filter (fun k => s.ports.a.getLsbD k != s.ports.b.getLsbD k)).length ∧
    cnt ≤ 32 ∧ (cnt = 0 ↔ s.ports.a = s.ports.b) ∧
    ∀ c, Yields .bitsDiff s.ports.b s.ports.a c (BitVec.ofNat 32 cnt)

/-- R202: the least k with 2^k > n, for nonnegative n; a fault otherwise. -/
def Obligations.BitLengthIsTheLeastExponent : Prop :=
  decode 0x0000000E#32 = some .bitLength ∧ ∀ s : State,
    (0 ≤ s.ports.a.toInt → ∃ k, k ≤ 31 ∧
      exec .bitLength s = .next (s.answer (.ok (BitVec.ofNat 32 k))) ∧
      s.ports.a.toInt < 2 ^ k ∧ ∀ j, j < k → (2 : Int) ^ j ≤ s.ports.a.toInt) ∧
    (s.ports.a.toInt < 0 → exec .bitLength s = .next (s.answer (.fault .negativeOperand)))

/-! ## Full adder -/

/-- R220: sum bits and carries position by position, carry-in 0, the carry out of bit 31 discarded. -/
def Obligations.FullAdderRipplesTheCarry : Prop :=
  decode 0x0000000F#32 = some .fullAdder ∧ ∀ s : State, ∃ (r : Word) (c : Nat → Bool),
    exec .fullAdder s = .next (s.answer (.ok r)) ∧ c 0 = false ∧
    ∀ k, k < 32 →
      r.getLsbD k = (s.ports.a.getLsbD k ^^ s.ports.b.getLsbD k ^^ c k) ∧
      c (k + 1) = (((s.ports.a.getLsbD k ^^ s.ports.b.getLsbD k) && c k) || (s.ports.a.getLsbD k && s.ports.b.getLsbD k))

/-- R221: bit-identical to native addition, read unsigned or signed. -/
def Obligations.FullAdderIsNativeAddition : Prop :=
  ∀ s : State,
    exec .fullAdder s = .next (s.answer (.ok (s.ports.a + s.ports.b))) ∧
    s.ports.a + s.ports.b = BitVec.ofNat 32 (s.ports.a.toNat + s.ports.b.toNat) ∧
    s.ports.a + s.ports.b = BitVec.ofInt 32 (s.ports.a.toInt + s.ports.b.toInt)

/-- R222: the carry out of a position is the majority of its three bits, and the other grouping of the source's formula
differs where a_i = b_i = 1 and carry_in = 0. -/
def Obligations.CarryOutIsTheMajority : Prop :=
  (∀ ai bi c : Bool, carryOut ai bi c = decide (2 ≤ ai.toNat + bi.toNat + c.toNat)) ∧
  (∀ ai bi c : Bool, (carryOut ai bi c).toNat * 2 + (sumBit ai bi c).toNat = ai.toNat + bi.toNat + c.toNat) ∧
  ((true ^^ true) && (false || (true && true))) ≠ carryOut true true false

/-! ## The interface -/

/-- R64: a port that an opcode does not read has no effect, whatever it carries. Only updateBit reads C; eight operations
read A alone. -/
def Obligations.UnreadPortsHaveNoEffect : Prop :=
  ∀ (i : Instr) (s s' : State), s.ports.a = s'.ports.a →
    ((i ≠ .updateBit ∧ s.ports.b = s'.ports.b) ∨ i = .isEven ∨ i = .isPositive ∨ i = .isPowerOfTwo ∨
      i = .multiplyByTwo ∨ i = .divideByTwo ∨ i = .switchSign ∨ i = .countSetBits ∨ i = .bitLength) →
    ∃ r, exec i s = .next (s.answer r) ∧ exec i s' = .next (s'.answer r)

/-- R27: a predicate answers 0 or 1, and so does getBit where its position is legal. -/
def Obligations.BooleanResultsAreZeroOrOne : Prop :=
  ∀ (i : Instr) (s : State),
    (i = .isEven ∨ i = .isPositive ∨ i = .isPowerOfTwo ∨ (i = .getBit ∧ LegalPosition s.ports.b)) →
    exec i s = .next (s.answer (.ok 0#32)) ∨ exec i s = .next (s.answer (.ok 1#32))

/-- R26: the STATUS word on the output port. -/
def Obligations.StatusShowsTheOutcome : Prop :=
  ∀ (s : State) (r : Response), s.response = some r →
    s.statusOut.extractLsb' 8 24 = 0#24 ∧ s.statusOut ≤ 0x00000003#32 ∧
    (s.statusOut = 0x00000000#32 ↔ ∃ v, r = .ok v) ∧
    (s.statusOut = 0x00000001#32 ↔ r = .fault .illegalCommand) ∧
    (s.statusOut = 0x00000002#32 ↔ r = .fault .invalidPosition) ∧
    (s.statusOut = 0x00000003#32 ↔ r = .fault .negativeOperand) ∧
    (∀ v, r = .ok v → s.resOut = v)

/-- R46, R248: a command gives the same response in any context, whatever was answered, or faulted, before it. -/
def Obligations.ResponseDependsOnTheRequestAlone : Prop :=
  ∀ (s s' : State) (r : Request) (rest rest' : List HostEvent),
    s.host = .command r :: rest → s'.host = .command r :: rest' →
    ∃ x : Response, step s = .next ((atIssue s r rest).answer x) ∧ step s' = .next ((atIssue s' r rest').answer x)

/-- R245: every command is answered as the rules say, the checks in their order, and nothing else changes: the meanings,
with their loops and recursions, agree with the closed forms of the rules on every request in every state. -/
def Obligations.StepAnswersAsTheRulesSay : Prop :=
  ∀ (s : State) (r : Request) (rest : List HostEvent), s.host = .command r :: rest →
    step s = .next ((atIssue s r rest).answer (responseOf r))

/-- R49: a list of commands is answered one at a time, in order, the k-th response to the k-th command. -/
def Obligations.RunAnswersCommandsInOrder : Prop :=
  ∀ (rs : List Request) (s : State) (rest : List HostEvent), s.host = rs.map HostEvent.command ++ rest →
    ∃ t : State, Host.Core.run Sys2Proof.core rs.length s = .next t ∧ t.host = rest ∧
      t.record = s.record ++ rs.map (fun r => ⟨r, some (responseOf r)⟩)

/-- The invariant at reset. -/
def Obligations.ResetRecordIsTrue : Prop := Inv State.reset

/-- Every step keeps the invariant: the record holds only responses the rules give, and the outputs show the last one. -/
def Obligations.StepKeepsTheRecordTrue : Prop :=
  ∀ s t : State, Inv s → step s = .next t → Inv t

/-- R69: the examples of the rule, and lines the rule does not admit. -/
def Obligations.AssemblyExamplesDenoteTheirWords : Prop :=
  assembleLine "getBit 5, 2".toList = .command ⟨0x00000000#32, 0x00000005#32, 0x00000002#32, 0#32⟩ ∧
  assembleLine "multiply 2, -3".toList = .command ⟨0x0000000A#32, 0x00000002#32, 0xFFFFFFFD#32, 0#32⟩ ∧
  assembleLine "updateBit 0, 3, 7".toList = .command ⟨0x00000003#32, 0#32, 3#32, 7#32⟩ ∧
  assembleLine "getBit 5".toList = .error ∧ assembleLine "isEven 4, 5".toList = .error ∧
  assembleLine "GetBit 5, 2".toList = .error ∧ assembleLine "isEven 2147483648".toList = .error
end

