-- ==== Sys2Proof/Laws/Config.lean ====
section
/-! SUPPORT. What is known of the constants of the unit. -/

namespace Sys2Proof

/-- LATENCY(op) is at least 1, and nothing else is known of it (70_reset_and_hazards.md R277). -/
theorem one_le_latency (i : Instr) : 1 ≤ Config.latency i := Nat.le_add_left _ _

/-- WIDTH is the width of the word (00_scope.md R6). -/
theorem word_width : Word = BitVec Config.width := rfl

end Sys2Proof
end

