-- ==== Sys2Proof/Laws/Decode.lean ====
section
/-! SUPPORT. What the fields of a command word, and the decoder, are as numbers. -/

namespace Sys2Proof

/-- OPC is the word modulo 32. -/
theorem opcField_toNat (cmd : Word) : (opcField cmd).toNat = cmd.toNat % 32 := by
  simp [opcField]

/-- RSV is the word divided by 32. -/
theorem rsvField_toNat (cmd : Word) : (rsvField cmd).toNat = cmd.toNat / 32 := by
  have := cmd.isLt
  simp only [rsvField, BitVec.extractLsb'_toNat, Nat.shiftRight_eq_div_pow]
  omega

/-- RSV is zero exactly for the words below 32. -/
theorem rsvField_eq_zero_iff (cmd : Word) : rsvField cmd = 0#27 ↔ cmd.toNat < 32 := by
  rw [← BitVec.toNat_inj, rsvField_toNat, BitVec.toNat_ofNat]
  omega

/-- The decoder on a word below 32 is the opcode map, and it refuses every other word. -/
theorem decode_eq (cmd : Word) : decode cmd = if cmd.toNat < 32 then opcodeMap cmd.toNat else none := by
  unfold decode
  by_cases h : cmd.toNat < 32
  · rw [if_neg (by simpa using (rsvField_eq_zero_iff cmd).2 h), if_pos h, opcField_toNat, Nat.mod_eq_of_lt h]
  · rw [if_pos (mt (rsvField_eq_zero_iff cmd).1 h), if_neg h]

/-- An opcode selects an operation exactly when it is that operation's opcode. -/
theorem opcodeMap_eq_some_iff (opc : Nat) (i : Instr) : opcodeMap opc = some i ↔ opc = (encode i).toNat := by
  constructor
  · intro h
    unfold opcodeMap at h
    split at h <;> first | (cases h; rfl) | cases h
  · rintro rfl
    cases i <;> rfl

end Sys2Proof
end

