-- ==== Sys2Proof/Laws/State.lean ====
section
/-! SUPPORT. One lemma per field per update of the state, and what the outputs carry after each. -/

namespace Sys2Proof.Machine

@[simp] theorem State.present_ports (s : State) (r : Request) : (s.present r).ports = r := rfl
@[simp] theorem State.present_response (s : State) (r : Request) : (s.present r).response = s.response := rfl
@[simp] theorem State.present_record (s : State) (r : Request) : (s.present r).record = s.record := rfl
@[simp] theorem State.present_host (s : State) (r : Request) : (s.present r).host = s.host := rfl
@[simp] theorem State.present_freeIndex (s : State) (r : Request) : (s.present r).freeIndex = s.freeIndex := rfl

@[simp] theorem State.answer_ports (s : State) (r : Response) : (s.answer r).ports = s.ports := rfl
@[simp] theorem State.answer_response (s : State) (r : Response) : (s.answer r).response = some r := rfl
@[simp] theorem State.answer_record (s : State) (r : Response) :
    (s.answer r).record = s.record ++ [⟨s.ports, some r⟩] := rfl
@[simp] theorem State.answer_host (s : State) (r : Response) : (s.answer r).host = s.host := rfl
@[simp] theorem State.answer_freeIndex (s : State) (r : Response) : (s.answer r).freeIndex = s.freeIndex := rfl

@[simp] theorem State.resetOutputs_ports (s : State) : s.resetOutputs.ports = s.ports := rfl
@[simp] theorem State.resetOutputs_response (s : State) : s.resetOutputs.response = none := rfl
@[simp] theorem State.resetOutputs_record (s : State) : s.resetOutputs.record = s.record := rfl
@[simp] theorem State.resetOutputs_host (s : State) : s.resetOutputs.host = s.host := rfl
@[simp] theorem State.resetOutputs_freeIndex (s : State) : s.resetOutputs.freeIndex = s.freeIndex := rfl

@[simp] theorem State.abandon_ports (s : State) : s.abandon.ports = s.ports := rfl
@[simp] theorem State.abandon_response (s : State) : s.abandon.response = none := rfl
@[simp] theorem State.abandon_record (s : State) : s.abandon.record = s.record ++ [⟨s.ports, none⟩] := rfl
@[simp] theorem State.abandon_host (s : State) : s.abandon.host = s.host := rfl
@[simp] theorem State.abandon_freeIndex (s : State) : s.abandon.freeIndex = s.freeIndex := rfl

@[simp] theorem State.tick_ports (s : State) : s.tick.ports = s.ports := rfl
@[simp] theorem State.tick_response (s : State) : s.tick.response = s.response := rfl
@[simp] theorem State.tick_record (s : State) : s.tick.record = s.record := rfl
@[simp] theorem State.tick_host (s : State) : s.tick.host = s.host := rfl
@[simp] theorem State.tick_freeIndex (s : State) : s.tick.freeIndex = s.freeIndex + 1 := rfl

/-- Two answers to one command are equal exactly when the responses are. -/
@[simp] theorem State.answer_inj (s : State) (r r' : Response) : s.answer r = s.answer r' ↔ r = r' := by
  constructor
  · intro h
    simpa using congrArg State.response h
  · rintro rfl
    rfl

/-- After a response STATUS carries its status word. -/
theorem State.statusOut_of_response {s : State} {r : Response} (h : s.response = some r) :
    s.statusOut = statusWord r := by
  simp only [State.statusOut, h]

/-- After an OK response RES carries its result. -/
theorem State.resOut_of_ok {s : State} {v : Word} (h : s.response = some (.ok v)) : s.resOut = v := by
  simp only [State.resOut, h]

end Sys2Proof.Machine
end

