-- ==== Sys2Proof/Laws/Operands.lean ====
section
/-! SUPPORT. What the operand checks and the shared shapes of a meaning do, said once. -/

namespace Sys2Proof.Machine

/-- A legal position is port B's value, below 32. -/
theorem checkPos_of_legal {b : Word} (h : 0 ≤ b.toInt ∧ b.toInt ≤ 31) : checkPos b = some b.toNat ∧ b.toNat < 32 := by
  have hb : b.toNat < 32 := by
    have := BitVec.toInt_eq_toNat_cond b
    omega
  refine ⟨?_, hb⟩
  rw [checkPos, if_neg (by simp only [Config.maxPosition, Config.width]; omega)]
  simp only [BitVec.extractLsb'_toNat, Nat.shiftRight_zero, Option.some.injEq]
  omega

/-- An illegal position is refused. -/
theorem checkPos_of_illegal {b : Word} (h : b.toInt < 0 ∨ 31 < b.toInt) : checkPos b = none := by
  rw [checkPos, if_pos (by simp only [Config.maxPosition, Config.width]; omega)]

/-- A number below 32 is a legal position. -/
theorem checkPos_ofNat {p : Nat} (h : p < 32) : checkPos (BitVec.ofNat 32 p) = some p := by
  have hp : (BitVec.ofNat 32 p).toNat = p := by simp only [BitVec.toNat_ofNat]; omega
  have hi := BitVec.toInt_eq_toNat_cond (BitVec.ofNat 32 p)
  have := (checkPos_of_legal (b := BitVec.ofNat 32 p) (by omega)).1
  rwa [hp] at this

/-- An accessor on a legal position completes with its result at that position. -/
theorem withPosition_legal {f : Nat → Word} {s : State} (h : 0 ≤ s.ports.b.toInt ∧ s.ports.b.toInt ≤ 31) :
    withPosition f s = .next (s.answer (.ok (f s.ports.b.toNat))) := by
  simp only [withPosition, (checkPos_of_legal h).1, complete]

/-- An accessor on an illegal position takes INVALID_POSITION. -/
theorem withPosition_illegal {f : Nat → Word} {s : State} (h : s.ports.b.toInt < 0 ∨ 31 < s.ports.b.toInt) :
    withPosition f s = .next (s.answer (.fault .invalidPosition)) := by
  simp only [withPosition, checkPos_of_illegal h, raiseFault]

/-- Everything an accessor can do: an answer, by whether the position is legal. -/
theorem withPosition_eq (f : Nat → Word) (s : State) :
    withPosition f s = .next (s.answer
      (if 0 ≤ s.ports.b.toInt ∧ s.ports.b.toInt ≤ 31 then .ok (f s.ports.b.toNat) else .fault .invalidPosition)) := by
  split
  · next h => exact withPosition_legal h
  · next h => exact withPosition_illegal (by omega)

/-- Everything an operation for nonnegative operands can do. -/
theorem unlessNegative_eq (negative : Bool) (v : Word) (s : State) :
    unlessNegative negative v s = .next (s.answer (if negative then .fault .negativeOperand else .ok v)) := by
  cases negative <;> rfl

/-- Bit 31 is the sign. -/
theorem isNegative_iff (v : Word) : isNegative v = true ↔ v.toInt < 0 := by
  have h : isNegative v = v.msb := (BitVec.msb_eq_getLsbD_last v).symm
  rw [h, BitVec.msb_eq_toInt, decide_eq_true_eq]

/-- The word with only bit p set, as a number. -/
theorem one_eq_ofNat (p : Nat) : one p = BitVec.ofNat 32 (2 ^ p) := by
  apply BitVec.eq_of_toNat_eq
  simp [one, BitVec.toNat_shiftLeft, Nat.shiftLeft_eq]

/-- Bit q of the word with only bit p set. -/
theorem one_getLsbD {p q : Nat} (hq : q < 32) : (one p).getLsbD q = decide (q = p) := by
  simp only [one, BitVec.getLsbD_shiftLeft, BitVec.getLsbD_one]
  by_cases h : q = p
  · subst h; simp [hq]
  · simp only [h, decide_false]
    by_cases hlt : q < p
    · simp [hlt]
    · have : q - p ≠ 0 := by omega
      simp [this]

/-- The same for the bit taken by index. -/
theorem one_getElem {p q : Nat} (hq : q < 32) : (one p)[q] = decide (q = p) := by
  rw [← BitVec.getLsbD_eq_getElem, one_getLsbD hq]

end Sys2Proof.Machine
end

