-- ==== Sys2Proof/Laws/PerInstr.lean ====
section
/-! SUPPORT. A statement about every instruction as it stands in the opcode map: its command word is legal (30_encoding.md
R66). -/

namespace Sys2Proof.Laws.LegalWord

/-- The command word of the instruction has RSV zero and an assigned opcode. -/
def Statement (i : Instr) : Prop := wellFormedCommand (encode i) = true

theorem getBit : Statement .getBit := by unfold Statement; decide
theorem setBit : Statement .setBit := by unfold Statement; decide
theorem clearBit : Statement .clearBit := by unfold Statement; decide
theorem updateBit : Statement .updateBit := by unfold Statement; decide
theorem isEven : Statement .isEven := by unfold Statement; decide
theorem isPositive : Statement .isPositive := by unfold Statement; decide
theorem isPowerOfTwo : Statement .isPowerOfTwo := by unfold Statement; decide
theorem multiplyByTwo : Statement .multiplyByTwo := by unfold Statement; decide
theorem divideByTwo : Statement .divideByTwo := by unfold Statement; decide
theorem switchSign : Statement .switchSign := by unfold Statement; decide
theorem multiply : Statement .multiply := by unfold Statement; decide
theorem multiplyUnsigned : Statement .multiplyUnsigned := by unfold Statement; decide
theorem countSetBits : Statement .countSetBits := by unfold Statement; decide
theorem bitsDiff : Statement .bitsDiff := by unfold Statement; decide
theorem bitLength : Statement .bitLength := by unfold Statement; decide
theorem fullAdder : Statement .fullAdder := by unfold Statement; decide
theorem toggleBit : Statement .toggleBit := by unfold Statement; decide

end Sys2Proof.Laws.LegalWord
end

