-- ==== Sys2Proof/Laws/Step.lean ====
section
/-! SUPPORT. What a step does, by the host's next event. -/

namespace Sys2Proof.Machine

/-- A transaction with an illegal command word answers ILLEGAL_COMMAND. -/
theorem issue_illegal {r : Request} {s : State} (h : decode r.cmd = none) :
    issue r s = .next ((s.present r).answer (.fault .illegalCommand)) := by
  simp only [issue, h, raiseFault]

/-- A transaction with a legal command word runs its operation on the request. -/
theorem issue_legal {r : Request} {s : State} {i : Instr} (h : decode r.cmd = some i) :
    issue r s = exec i (s.present r) := by
  simp only [issue, h]

/-- With nothing from the host, a step only moves on the free values. -/
theorem step_idle {s : State} (h : s.host = []) : step s = .next s.tick := by
  simp only [step, runNext, h]

/-- A step takes the host's next event. -/
theorem step_event {s : State} {e : HostEvent} {rest : List HostEvent} (h : s.host = e :: rest) :
    step s = takeEvent e { s.tick with host := rest } := by
  simp only [step, runNext, h]

/-- A run of one step more than n, from a state whose step answers a next state, is n steps from there. -/
theorem run_succ {M : Host.Core} {n : Nat} {s t : M.State} (h : M.step s = .next t) : M.run (n + 1) s = M.run n t := by
  rw [Host.Core.run, h]

/-- The command placed by the host pipeline is the one the next step runs. -/
theorem withFetchWord_host (s : State) (nbits w : Nat) :
    (s.withFetchWord nbits w).host =
      .command { s.ports with cmd := BitVec.ofNat 32 (w % 2 ^ nbits) } :: s.host := rfl

end Sys2Proof.Machine
end

