-- ==== Sys2Proof/Tests/Slice0.lean ====
section
/-! SUPPORT. Tests, each one step or one call. Expected values are those of 95_test_vectors.md (the section in each
heading), or stand in the rule named. After them, one witness per hypothesis of the statements. -/

namespace Sys2Proof.Tests

open Sys2Proof.Machine Sys2Proof.Safety

/-! ## Well-formedness: one ill-formed word per check (section 2.8) -/

theorem test_rsv_bit_refused : rsvIsZero 0x00000020#32 = false ∧ wellFormedCommand 0x00000020#32 = false := by decide
theorem test_reserved_opc_refused : opcIsAssigned 0x00000011#32 = false ∧ wellFormedCommand 0x0000001F#32 = false := by
  decide
theorem test_legal_word_accepted : wellFormedCommand 0x00000010#32 = true := by decide

/-! ## Decoding: the words of each family bit by bit (30_encoding.md R60, R62) -/

theorem test_decode_accessors :
    decode 0b00000000000000000000000000000000#32 = some .getBit ∧
    decode 0b00000000000000000000000000000001#32 = some .setBit ∧
    decode 0b00000000000000000000000000000010#32 = some .clearBit ∧
    decode 0b00000000000000000000000000000011#32 = some .updateBit ∧
    decode 0b00000000000000000000000000010000#32 = some .toggleBit := by decide
theorem test_decode_predicates :
    decode 0b00000000000000000000000000000100#32 = some .isEven ∧
    decode 0b00000000000000000000000000000101#32 = some .isPositive ∧
    decode 0b00000000000000000000000000000110#32 = some .isPowerOfTwo := by decide
theorem test_decode_shifts :
    decode 0b00000000000000000000000000000111#32 = some .multiplyByTwo ∧
    decode 0b00000000000000000000000000001000#32 = some .divideByTwo ∧
    decode 0b00000000000000000000000000001001#32 = some .switchSign := by decide
theorem test_decode_multipliers :
    decode 0b00000000000000000000000000001010#32 = some .multiply ∧
    decode 0b00000000000000000000000000001011#32 = some .multiplyUnsigned := by decide
theorem test_decode_counting :
    decode 0b00000000000000000000000000001100#32 = some .countSetBits ∧
    decode 0b00000000000000000000000000001101#32 = some .bitsDiff ∧
    decode 0b00000000000000000000000000001110#32 = some .bitLength := by decide
theorem test_decode_adder : decode 0b00000000000000000000000000001111#32 = some .fullAdder := by decide
theorem test_decode_reserved :
    decode 0b00000000000000000000000000010001#32 = none ∧ decode 0b00000000000000000000000000011111#32 = none ∧
    decode 0b00000000000000000000000000100000#32 = none ∧ decode 0b10000000000000000000000000000000#32 = none := by
  decide
theorem test_table_word : decodeTableWord 32 0x10 = some .toggleBit ∧ decodeTableWord 64 0x10 = none := by decide

/-! ## One command from reset: the response of the step (sections 2.1 to 2.8) -/

/-- The state at reset with one thing for the host to do. -/
def after (e : HostEvent) : State := { State.reset with host := [e] }

/-- The response of one command issued at reset. -/
def answerTo (cmd a b c : Word) : Option Response :=
  match step (after (.command ⟨cmd, a, b, c⟩)) with
  | .next t => t.response
  | .fault _ => none
  | .refused _ => none

theorem test_getBit_sign_bit :
    answerTo 0x00000000#32 0x80000000#32 0x0000001F#32 0x00000000#32 = some (.ok 0x00000001#32) := by decide
theorem test_getBit_position_32_faults :
    answerTo 0x00000000#32 0x00000005#32 0x00000020#32 0x00000000#32 = some (.fault .invalidPosition) := by decide
theorem test_setBit_makes_negative :
    answerTo 0x00000001#32 0x00000000#32 0x0000001F#32 0x00000000#32 = some (.ok 0x80000000#32) := by decide
theorem test_setBit_position_33_faults :
    answerTo 0x00000001#32 0x00000000#32 0x00000021#32 0x00000000#32 = some (.fault .invalidPosition) := by decide
theorem test_clearBit_sign_bit :
    answerTo 0x00000002#32 0xFFFFFFFF#32 0x0000001F#32 0x00000000#32 = some (.ok 0x7FFFFFFF#32) := by decide
theorem test_clearBit_negative_position_faults :
    answerTo 0x00000002#32 0x00000001#32 0xFFFFFFFB#32 0x00000000#32 = some (.fault .invalidPosition) := by decide
theorem test_updateBit_int_min_counts_as_one :
    answerTo 0x00000003#32 0x00000000#32 0x0000001F#32 0x80000000#32 = some (.ok 0x80000000#32) := by decide
theorem test_updateBit_zero_clears :
    answerTo 0x00000003#32 0x00000005#32 0x00000000#32 0x00000000#32 = some (.ok 0x00000004#32) := by decide
theorem test_toggleBit_middle_bit :
    answerTo 0x00000010#32 0xFFFFFFFF#32 0x0000000F#32 0x00000000#32 = some (.ok 0xFFFF7FFF#32) := by decide
theorem test_toggleBit_ignores_c :
    answerTo 0x00000010#32 0x00000005#32 0x00000001#32 0xFFFFFFFF#32 = some (.ok 0x00000007#32) := by decide
theorem test_isEven_minus_one_is_odd :
    answerTo 0x00000004#32 0xFFFFFFFF#32 0x00000000#32 0x00000000#32 = some (.ok 0x00000000#32) := by decide
theorem test_isEven_ignores_b_and_c :
    answerTo 0x00000004#32 0x00000004#32 0xDEADBEEF#32 0x12345678#32 = some (.ok 0x00000001#32) := by decide
theorem test_isPositive_zero_is_not :
    answerTo 0x00000005#32 0x00000000#32 0x00000000#32 0x00000000#32 = some (.ok 0x00000000#32) := by decide
theorem test_isPositive_int_max :
    answerTo 0x00000005#32 0x7FFFFFFF#32 0x00000000#32 0x00000000#32 = some (.ok 0x00000001#32) := by decide
theorem test_isPowerOfTwo_int_min :
    answerTo 0x00000006#32 0x80000000#32 0x00000000#32 0x00000000#32 = some (.ok 0x00000001#32) := by decide
theorem test_isPowerOfTwo_six_is_not :
    answerTo 0x00000006#32 0x00000006#32 0x00000000#32 0x00000000#32 = some (.ok 0x00000000#32) := by decide
theorem test_multiplyByTwo_overflow_wraps :
    answerTo 0x00000007#32 0x7FFFFFFF#32 0x00000000#32 0x00000000#32 = some (.ok 0xFFFFFFFE#32) := by decide
theorem test_multiplyByTwo_bit_31_discarded :
    answerTo 0x00000007#32 0x80000000#32 0x00000000#32 0x00000000#32 = some (.ok 0x00000000#32) := by decide
theorem test_divideByTwo_floor_not_truncation :
    answerTo 0x00000008#32 0xFFFFFFF9#32 0x00000000#32 0x00000000#32 = some (.ok 0xFFFFFFFC#32) := by decide
theorem test_divideByTwo_int_min :
    answerTo 0x00000008#32 0x80000000#32 0x00000000#32 0x00000000#32 = some (.ok 0xC0000000#32) := by decide
theorem test_switchSign_int_min_fixed_point :
    answerTo 0x00000009#32 0x80000000#32 0x00000000#32 0x00000000#32 = some (.ok 0x80000000#32) := by decide
theorem test_switchSign_five :
    answerTo 0x00000009#32 0x00000005#32 0x00000000#32 0x00000000#32 = some (.ok 0xFFFFFFFB#32) := by decide
theorem test_multiply_negative_product :
    answerTo 0x0000000A#32 0x00003039#32 0xFFFFE57B#32 0x00000000#32 = some (.ok 0xFB012863#32) := by decide
theorem test_multiply_three_times_int_min :
    answerTo 0x0000000A#32 0x00000003#32 0x80000000#32 0x00000000#32 = some (.ok 0x80000000#32) := by decide
theorem test_multiplyUnsigned_product_wraps :
    answerTo 0x0000000B#32 0x7FFFFFFF#32 0x7FFFFFFF#32 0x00000000#32 = some (.ok 0x00000001#32) := by decide
theorem test_multiplyUnsigned_negative_y_faults :
    answerTo 0x0000000B#32 0x00000002#32 0xFFFFFFFF#32 0x00000000#32 = some (.fault .negativeOperand) := by decide
theorem test_countSetBits_minus_one :
    answerTo 0x0000000C#32 0xFFFFFFFF#32 0x00000000#32 0x00000000#32 = some (.ok 0x00000020#32) := by decide
theorem test_countSetBits_minus_eight :
    answerTo 0x0000000C#32 0xFFFFFFF8#32 0x00000000#32 0x00000000#32 = some (.ok 0x0000001D#32) := by decide
theorem test_bitsDiff_all_differ :
    answerTo 0x0000000D#32 0x0F0F0F0F#32 0xF0F0F0F0#32 0x00000000#32 = some (.ok 0x00000020#32) := by decide
theorem test_bitsDiff_one_and_minus_one :
    answerTo 0x0000000D#32 0x00000001#32 0xFFFFFFFF#32 0x00000000#32 = some (.ok 0x0000001F#32) := by decide
theorem test_bitLength_two_to_the_30 :
    answerTo 0x0000000E#32 0x40000000#32 0x00000000#32 0x00000000#32 = some (.ok 0x0000001F#32) := by decide
theorem test_bitLength_negative_faults :
    answerTo 0x0000000E#32 0x80000000#32 0x00000000#32 0x00000000#32 = some (.fault .negativeOperand) := by decide
theorem test_fullAdder_carry_everywhere :
    answerTo 0x0000000F#32 0xFFFFFFFF#32 0xFFFFFFFF#32 0x00000000#32 = some (.ok 0xFFFFFFFE#32) := by decide
theorem test_fullAdder_signed_overflow :
    answerTo 0x0000000F#32 0x7FFFFFFF#32 0x00000001#32 0x00000000#32 = some (.ok 0x80000000#32) := by decide
theorem test_illegal_wins_over_position :
    answerTo 0x00000031#32 0x00000005#32 0x00000020#32 0x00000000#32 = some (.fault .illegalCommand) := by decide

/-! ## The step, reset and the outputs (10_state.md R26, R27; 70_reset_and_hazards.md R270 to R276) -/

theorem test_placed_command_runs_first :
    step (State.reset.withFetchWord 32 0x04) =
      exec .isEven { State.reset with ports := ⟨4#32, 0#32, 0#32, 0#32⟩, freeIndex := 1 } := rfl
theorem test_status_word_negative_operand : statusWord (.fault .negativeOperand) = 0x00000003#32 := by decide
theorem test_cut_off_command_recorded_without_response :
    step (after (.commandReset ⟨4#32, 4#32, 0#32, 0#32⟩)) =
      .next { State.reset with ports := ⟨4#32, 4#32, 0#32, 0#32⟩, record := [⟨⟨4#32, 4#32, 0#32, 0#32⟩, none⟩], freeIndex := 1 } :=
  rfl
theorem test_carry_grouping : carryOut true true false = true ∧ sumBit true true false = false := by decide

/-! ## Assembly text (30_encoding.md R69) -/

theorem test_asm_comment : assembleLine "; nothing".toList = .blank := by decide
theorem test_asm_hex : assembleLine "switchSign 0x80000000 ; INT_MIN".toList =
    .command ⟨0x00000009#32, 0x80000000#32, 0#32, 0#32⟩ := by decide
theorem test_asm_raw : assembleLine ".cmd 0x00000031, 5, 32, 0".toList =
    .command ⟨0x00000031#32, 5#32, 32#32, 0#32⟩ := by decide
theorem test_asm_limits : literal "-2147483648".toList = some 0x80000000#32 ∧ literal "2147483648".toList = none ∧
    literal "-2147483649".toList = none ∧ literal "0x123456789".toList = none ∧ literal "0x".toList = none ∧
    literal "0xdeadBEEF".toList = some 0xDEADBEEF#32 ∧ literal "1A".toList = none := by decide

/-! ## Witnesses: the hypotheses of each statement are met, at the boundaries of its clauses -/

/-- A state whose operand ports carry the given words. -/
def carrying (a b c : Word) : State := { State.reset with ports := ⟨0#32, a, b, c⟩ }

theorem witness_ReservedWordsAreIllegalCommands :
    ReservedWord 0x00000011#32 ∧ ReservedWord 0x0000001F#32 ∧ ReservedWord 0x00000020#32 ∧ ReservedWord 0x80000000#32 ∧
    ¬ ReservedWord 0x00000010#32 ∧
    (after (.command ⟨0x11#32, 1#32, 2#32, 3#32⟩)).host = .command ⟨0x11#32, 1#32, 2#32, 3#32⟩ :: [] := by decide
/-- Also of StepAnswersAsTheRulesSay and ResetIsIdleAndReady. -/
theorem witness_StepRunsTheDecodedCommand :
    (after (.command ⟨0x10#32, 5#32, 1#32, 0#32⟩)).host = .command ⟨0x10#32, 5#32, 1#32, 0#32⟩ :: [] ∧
    decode 0x10#32 = some .toggleBit := by decide
theorem witness_IdleStepChangesNothing : State.reset.host = [] := rfl
theorem witness_ResetEventLeavesNoResponse : (after .reset).host = .reset :: [] := rfl
theorem witness_CommandCutOffByResetMayBeReissued :
    (after (.commandReset ⟨4#32, 4#32, 0#32, 0#32⟩)).host = .commandReset ⟨4#32, 4#32, 0#32, 0#32⟩ :: [] ∧
    ({ State.reset with host := [.commandReset ⟨4#32, 4#32, 0#32, 0#32⟩, .command ⟨4#32, 4#32, 0#32, 0#32⟩] } : State).host =
      .commandReset ⟨4#32, 4#32, 0#32, 0#32⟩ :: .command ⟨4#32, 4#32, 0#32, 0#32⟩ :: [] := ⟨rfl, rfl⟩
/-- Also of the second case of OnlyUnheldPortsStopTheUnit. -/
theorem witness_UnheldPortsAreRefused :
    (after (.commandUnheld ⟨4#32, 4#32, 0#32, 0#32⟩)).host = .commandUnheld ⟨4#32, 4#32, 0#32, 0#32⟩ :: [] := rfl
theorem witness_StepTakesOneEvent : step (after .reset) = .next { State.reset with freeIndex := 1 } := rfl
/-- Of the five accessor statements, and of the getBit case of BooleanResultsAreZeroOrOne. -/
theorem witness_legal_positions : LegalPosition (carrying 5#32 0#32 0#32).ports.b ∧
    LegalPosition (carrying 5#32 31#32 0#32).ports.b := by decide
theorem witness_illegal_positions : IllegalPosition (carrying 5#32 32#32 0#32).ports.b ∧
    IllegalPosition (carrying 5#32 0xFFFFFFFF#32 0#32).ports.b ∧ IllegalPosition (carrying 5#32 0x80000000#32 0#32).ports.b := by
  decide
theorem witness_UpdateBitWritesTheTruthValue :
    (LegalPosition (carrying 5#32 0#32 0#32).ports.b ∧ (carrying 5#32 0#32 0#32).ports.c = 0#32) ∧
    (LegalPosition (carrying 5#32 31#32 2#32).ports.b ∧ (carrying 5#32 31#32 2#32).ports.c ≠ 0#32) := by decide
/-- Of AccessorsAgree and AccessorsChangeNoOtherBit. -/
theorem witness_accessor_laws : 0 < 32 ∧ 31 < 32 ∧ (Instr.toggleBit = .setBit ∨ Instr.toggleBit = .clearBit ∨
    Instr.toggleBit = .updateBit ∨ Instr.toggleBit = .toggleBit) := by decide
theorem witness_TenOperationsNeverFault : Instr.fullAdder = .isEven ∨ Instr.fullAdder = .isPositive ∨
    Instr.fullAdder = .isPowerOfTwo ∨ Instr.fullAdder = .multiplyByTwo ∨ Instr.fullAdder = .divideByTwo ∨
    Instr.fullAdder = .switchSign ∨ Instr.fullAdder = .multiply ∨ Instr.fullAdder = .countSetBits ∨
    Instr.fullAdder = .bitsDiff ∨ Instr.fullAdder = .fullAdder := by decide
/-- The clauses of R172 at their limits, with the step counts of section 2.4. -/
theorem witness_MultiplyTerminatesInTheCountedSteps :
    (carrying 1#32 0x80000000#32 0#32).ports.a = 1#32 ∧ (carrying 1#32 0x80000000#32 0#32).ports.b = 0x80000000#32 ∧
    (mulRec 33 0#32 0xFFFFFFFB#32).steps = 0 ∧ (mulRec 33 1#32 0x80000000#32).steps = 32 ∧
    (mulRec 33 0x80000000#32 3#32).steps = 1 ∧ (mulRec 33 0x40000000#32 0x80000000#32).steps = 2 ∧
    (0x80000000#32 : Word).getLsbD 31 = true ∧ (∀ j : Fin 31, (0x80000000#32 : Word).getLsbD j.val = false) ∧
    (1#32 : Word).getLsbD 0 = true ∧ 0 < (0x7FFFFFFF#32 : Word).toInt := by decide
theorem witness_MultiplyLoopGivesTheSameResult :
    (mulRec 33 (carrying 2#32 3#32 0#32).ports.a (carrying 2#32 3#32 0#32).ports.b).steps ≤ 2 := by decide
/-- Of MultiplyUnsignedShiftsAndAdds, MultiplyUnsignedAgreesWithMultiply and BitLengthIsTheLeastExponent. -/
theorem witness_operand_signs : 0 ≤ (0#32 : Word).toInt ∧ 0 ≤ (0x7FFFFFFF#32 : Word).toInt ∧
    (0x80000000#32 : Word).toInt < 0 ∧ (0xFFFFFFFF#32 : Word).toInt < 0 := by decide
theorem witness_SwitchSignNegatesAndWraps : (carrying 0x80000000#32 0#32 0#32).ports.a = 0x80000000#32 := rfl
theorem witness_UnreadPortsHaveNoEffect :
    (carrying 4#32 0#32 0#32).ports.a = (carrying 4#32 0xDEADBEEF#32 0x12345678#32).ports.a ∧
    (carrying 7#32 3#32 0#32).ports.b = (carrying 7#32 3#32 0xFFFFFFFF#32).ports.b := by decide
theorem witness_StatusShowsTheOutcome :
    (State.reset.answer (.ok 1#32)).response = some (.ok 1#32) ∧
    (State.reset.answer (.fault .illegalCommand)).response = some (.fault .illegalCommand) ∧
    (State.reset.answer (.fault .invalidPosition)).response = some (.fault .invalidPosition) ∧
    (State.reset.answer (.fault .negativeOperand)).response = some (.fault .negativeOperand) := by decide
/-- Two contexts for one command: at reset, and after a fault (95_test_vectors.md P3). -/
theorem witness_ResponseDependsOnTheRequestAlone :
    (after (.command ⟨0#32, 5#32, 2#32, 0#32⟩)).host = .command ⟨0#32, 5#32, 2#32, 0#32⟩ :: [] ∧
    ({ State.reset.answer (.fault .invalidPosition) with host := [.command ⟨0#32, 5#32, 2#32, 0#32⟩, .reset] } : State).host =
      .command ⟨0#32, 5#32, 2#32, 0#32⟩ :: [.reset] := by decide
theorem witness_RunAnswersCommandsInOrder :
    ({ State.reset with host := [.command ⟨0#32, 5#32, 32#32, 0#32⟩, .command ⟨0#32, 5#32, 2#32, 0#32⟩, .reset] } : State).host =
      [⟨0#32, 5#32, 32#32, 0#32⟩, ⟨0#32, 5#32, 2#32, 0#32⟩].map HostEvent.command ++ [.reset] := rfl

/-- A state that a run reaches: isEven 4 has been answered, and getBit 5, 32 comes next. -/
def midRun : State :=
  { ports := ⟨4#32, 4#32, 0#32, 0#32⟩, response := some (.ok 1#32),
    record := [⟨⟨4#32, 4#32, 0#32, 0#32⟩, some (.ok 1#32)⟩],
    host := [.command ⟨0#32, 5#32, 32#32, 0#32⟩], freeIndex := 1 }

theorem witness_StepKeepsTheRecordTrue : Inv midRun ∧ ∃ t, step midRun = .next t := by
  refine ⟨⟨?_, ?_⟩, _, rfl⟩
  · intro e he
    obtain rfl : e = ⟨⟨4#32, 4#32, 0#32, 0#32⟩, some (.ok 1#32)⟩ := by simpa [midRun] using he
    exact .inr rfl
  · intro r hr
    exact ⟨⟨⟨4#32, 4#32, 0#32, 0#32⟩, some (.ok 1#32)⟩, rfl, hr⟩

end Sys2Proof.Tests
end

section
/-! SUPPORT. The closed forms of the meanings: what each rule's loop, recursion or test gives, as a number or word, and from
that the one answer of each of the 17 operations (10_state.md R29). -/

namespace Sys2Proof.Proofs

open Sys2Proof.Machine Sys2Proof.Safety

/-! ## Truth values and single bits -/

/-- A test that decides a proposition answers its truth word (R27). -/
theorem bool01_eq_truth {p : Bool} {P : Prop} [Decidable P] (h : p = true ↔ P) : bool01 p = truth P := by
  simp only [bool01, truth, h]

theorem bool01_zero_or_one (p : Bool) : bool01 p = 0#32 ∨ bool01 p = 1#32 := by
  cases p
  · exact .inl rfl
  · exact .inr rfl

theorem bitAt_eq_one (b : Word) : bitAt b = one b.toNat := (one_eq_ofNat b.toNat).symm

theorem getLsbD_zero_eq (n : Word) : n.getLsbD 0 = decide (n.toNat % 2 = 1) := by
  simp [BitVec.getLsbD, Nat.testBit_zero]

/-- A truth value moved to position i has that value at i and zeros elsewhere. -/
theorem bool01_shiftLeft_getLsbD (p : Bool) {i q : Nat} (hq : q < 32) :
    (bool01 p <<< i).getLsbD q = (p && decide (q = i)) := by
  cases p
  · simp [bool01]
  · simpa [bool01, one] using one_getLsbD (p := i) hq

/-! ## Bit accessors (41_bit_accessors.md) -/

theorem getBitResult_eq (n : Word) (p : Nat) : getBitResult n p = bool01 (n.getLsbD p) := by
  simp [getBitResult]

/-- Clearing the bit and writing a truth value there is clearing it for zero and setting it for anything else (R104). -/
theorem updateBitResult_eq (n : Word) (p : Nat) (c : Word) :
    updateBitResult n p c = if c = 0#32 then clearBitResult n p else setBitResult n p := by
  unfold updateBitResult clearBitResult setBitResult
  split
  · next hc => simp [hc, bool01]
  · next hc =>
    have hone : bool01 (c != 0#32) <<< p = one p := by simp [bool01, one, hc]
    rw [hone]
    ext q hq
    cases h : (one p)[q] <;> simp [h]

/-! ## Predicates (42_predicates.md) -/

theorem isEven_iff (n : Word) : isEven n = true ↔ n.toInt % 2 = 0 := by
  have hint := BitVec.toInt_eq_toNat_cond n
  simp only [isEven, getLsbD_zero_eq, Bool.not_eq_true', decide_eq_false_iff_not]
  omega

theorem isPositive_iff (n : Word) : isPositive n = true ↔ 0 < n.toInt := by
  have hneg : isNegative n = decide (n.toInt < 0) := by
    rw [Bool.eq_iff_iff, isNegative_iff, decide_eq_true_eq]
  have hzero : n = 0#32 ↔ n.toInt = 0 := by rw [← BitVec.toInt_inj, BitVec.toInt_zero]
  simp only [isPositive, hneg, Bool.and_eq_true, Bool.not_eq_true', decide_eq_false_iff_not, bne_iff_ne, ne_eq, hzero]
  omega

/-- A word is 2^k for some k exactly when it is so for a position k. -/
theorem toNat_isPowerOfTwo_iff (n : Word) :
    n.toNat.isPowerOfTwo ↔ ∃ k, k < 32 ∧ n = BitVec.ofNat 32 (2 ^ k) := by
  constructor
  · rintro ⟨k, hk⟩
    have hlt : k < 32 := (Nat.pow_lt_pow_iff_right (by decide)).1 (hk ▸ n.isLt)
    exact ⟨k, hlt, by rw [← hk, BitVec.ofNat_toNat, BitVec.setWidth_eq]⟩
  · rintro ⟨k, hk, rfl⟩
    exact ⟨k, by rw [BitVec.toNat_ofNat, Nat.mod_eq_of_lt (Nat.pow_lt_pow_right (by decide) hk)]⟩

/-- The bitwise test holds of 0, where the subtraction wraps, and of the powers of two (R132). -/
theorem isPowerOfTwo_iff (n : Word) :
    isPowerOfTwo n = true ↔ n = 0#32 ∨ ∃ k, k < 32 ∧ n = BitVec.ofNat 32 (2 ^ k) := by
  rw [isPowerOfTwo, beq_iff_eq, ← toNat_isPowerOfTwo_iff]
  by_cases hn : n = 0#32
  · simp [hn]
  · have hpos : n.toNat ≠ 0 := by simpa [← BitVec.toNat_inj] using hn
    have hsub : (n - 1#32).toNat = n.toNat - 1 := by
      rw [BitVec.toNat_sub_of_le (by rw [BitVec.le_def, BitVec.toNat_ofNat]; omega), BitVec.toNat_ofNat]
    rw [← BitVec.toNat_inj, BitVec.toNat_and, hsub, BitVec.toNat_ofNat, Nat.zero_mod,
      Nat.and_sub_one_eq_zero_iff_isPowerOfTwo hpos]
    simp only [hn, false_or]

/-! ## Scaling shifts (43_scaling_shifts.md) -/

theorem doubled_eq (n : Word) : doubled n = 2#32 * n := by
  rw [doubled, BitVec.shiftLeft_eq_mul_twoPow, BitVec.mul_comm]
  rfl

theorem halved_toInt (n : Word) : (halved n).toInt = n.toInt / 2 := by
  rw [halved, BitVec.toInt_sshiftRight, Int.shiftRight_eq_div_pow]
  rfl

theorem negated_eq (n : Word) : negated n = -n := (BitVec.neg_eq_not_add n).symm

/-! ## Multipliers (44_multiplication.md) -/

/-- What one branch of the recursion takes from b before it halves: nothing, one, or minus one (R170). -/
def multiplierDigit (b : Word) : Int := if isEven b then 0 else if isPositive b then 1 else -1

theorem partialProduct_eq (a b : Word) : partialProduct a b = a * BitVec.ofInt 32 (multiplierDigit b) := by
  have hminus : BitVec.ofInt 32 (-1) = -1#32 := rfl
  unfold partialProduct multiplierDigit
  split_ifs
  · simp
  · simp
  · rw [hminus, BitVec.mul_neg, BitVec.mul_one, BitVec.zero_sub]

theorem multiplierDigit_eq (b : Word) :
    multiplierDigit b = if b.toInt % 2 = 0 then 0 else if 0 < b.toInt then 1 else -1 := by
  simp only [multiplierDigit, isEven_iff, isPositive_iff]

/-- The next multiplier is half of b without its digit, which is even. -/
theorem nextMultiplier_toInt (b : Word) : 2 * (nextMultiplier b).toInt + multiplierDigit b = b.toInt := by
  have hlo := BitVec.le_toInt b
  have hhi := BitVec.toInt_lt (x := b)
  have hone : (1#32).toInt = 1 := rfl
  have hsub : 0 < b.toInt → (b - 1#32).toInt = b.toInt - 1 := fun _ => by
    rw [BitVec.toInt_sub, hone, Int.bmod_eq_of_le (by omega) (by omega)]
  have hadd : ¬ 0 < b.toInt → (b + 1#32).toInt = b.toInt + 1 := fun _ => by
    rw [BitVec.toInt_add, hone, Int.bmod_eq_of_le (by omega) (by omega)]
  simp only [multiplierDigit_eq, nextMultiplier, isEven_iff, isPositive_iff]
  split_ifs with heven hpos
  · rw [halved_toInt]; omega
  · rw [halved_toInt, hsub hpos]; omega
  · rw [halved_toInt, hadd hpos]; omega

/-- Each branch halves the magnitude of the multiplier, so the recursion ends (R172). -/
theorem nextMultiplier_natAbs (b : Word) : (nextMultiplier b).toInt.natAbs = b.toInt.natAbs / 2 := by
  have h := nextMultiplier_toInt b
  rw [multiplierDigit_eq] at h
  split_ifs at h <;> omega

/-- One branch keeps the product: (2a)(b') plus what the branch adds is ab (R170). -/
theorem doubled_mul_nextMultiplier (a b : Word) :
    doubled a * nextMultiplier b + partialProduct a b = a * b := by
  have hb : b = 2#32 * nextMultiplier b + BitVec.ofInt 32 (multiplierDigit b) := by
    have h := congrArg (BitVec.ofInt 32) (nextMultiplier_toInt b)
    rw [BitVec.ofInt_add, BitVec.ofInt_mul, BitVec.ofInt_toInt, BitVec.ofInt_toInt] at h
    exact h.symm
  calc doubled a * nextMultiplier b + partialProduct a b
      = a * (2#32 * nextMultiplier b + BitVec.ofInt 32 (multiplierDigit b)) := by
        rw [doubled_eq, partialProduct_eq]; ring
    _ = a * b := by rw [← hb]

/-- With as many calls as the multiplier's magnitude has bits, the recursion gives the product. -/
theorem mulRec_product (calls : Nat) (a b : Word) (h : b.toInt.natAbs < 2 ^ calls) :
    (mulRec calls a b).product = a * b := by
  induction calls generalizing a b with
  | zero =>
    have hb : b = 0#32 := BitVec.eq_of_toInt_eq (by rw [BitVec.toInt_zero]; omega)
    simp [mulRec, hb]
  | succ calls ih =>
    rw [mulRec]
    split
    · next hz => rcases hz with rfl | rfl <;> simp
    · simp only
      rw [ih _ _ (by rw [nextMultiplier_natAbs]; omega), doubled_mul_nextMultiplier]

theorem mulResult_eq (a b : Word) : mulResult a b = a * b := by
  have hlo := BitVec.le_toInt b
  have hhi := BitVec.toInt_lt (x := b)
  exact mulRec_product _ a b (by simp only [mulCalls, Config.width]; omega)

/-- A word is its low bit and twice the rest. -/
theorem eq_low_bit_add (y : Word) : y = bool01 (y.getLsbD 0) + 2#32 * (y >>> 1) := by
  have hlow : (bool01 (y.getLsbD 0)).toNat = y.toNat % 2 := by
    rw [getLsbD_zero_eq, bool01]
    rcases Nat.mod_two_eq_zero_or_one y.toNat with h | h <;> simp [h]
  have hlt := y.isLt
  apply BitVec.eq_of_toNat_eq
  rw [BitVec.toNat_add, BitVec.toNat_mul, hlow, BitVec.toNat_ushiftRight, BitVec.toNat_ofNat, Nat.shiftRight_eq_div_pow]
  omega

/-- From index i with accumulator acc the loop adds (x << i) * y, given as many iterations as y has bits (R175). -/
theorem shiftAndAdd_product (x : Word) (cap i : Nat) (y acc : Word) (h : y.toNat < 2 ^ cap) :
    (shiftAndAdd x cap i y acc).product = acc + (x <<< i) * y := by
  induction cap generalizing i y acc with
  | zero =>
    have hy : y = 0#32 := BitVec.eq_of_toNat_eq (by rw [BitVec.toNat_ofNat]; omega)
    simp [shiftAndAdd, hy]
  | succ cap ih =>
    rw [shiftAndAdd]
    split
    · next hy => simp [hy]
    · have hacc : (if y.getLsbD 0 then acc + (x <<< i) else acc) = acc + (x <<< i) * bool01 (y.getLsbD 0) := by
        cases y.getLsbD 0 <;> simp [bool01]
      have hshift : x <<< (i + 1) = 2#32 * (x <<< i) := by rw [BitVec.shiftLeft_add]; exact doubled_eq _
      simp only
      rw [ih _ _ _ (by rw [BitVec.toNat_ushiftRight, Nat.shiftRight_eq_div_pow]; omega), hacc, hshift]
      conv_rhs => rw [eq_low_bit_add y]
      ring

theorem umulResult_eq (x y : Word) : umulResult x y = x * y := by
  rw [umulResult, shiftAndAdd_product x Config.width 0 y 0#32 y.isLt]
  simp

/-! ## Population count (45_bit_counting.md) -/

theorem countBelow_eq (v : Word) (positions : Nat) :
    countBelow v positions = ((List.range positions).filter (fun k => v.getLsbD k)).length := by
  induction positions with
  | zero => rfl
  | succ i ih =>
    rw [countBelow, ih, List.range_succ, List.filter_append, List.length_append]
    cases h : v.getLsbD i <;> simp [h]

theorem popcount_eq (v : Word) : popcount v = countPositions (fun k => v.getLsbD k) := countBelow_eq v 32

/-- The set bits of the difference are the positions at which the operands differ (R201). -/
theorem popcount_xor (a b : Word) :
    popcount (a ^^^ b) = countPositions (fun k => a.getLsbD k != b.getLsbD k) := by
  simp only [popcount_eq, BitVec.getLsbD_xor, Bool.xor]

/-- The search from candidate k answers the first exponent that exceeds n, or its last candidate (R202). -/
theorem lengthSearch_eq {v : Word} (hv : 0 ≤ v.toInt) (more k : Nat) :
    lengthSearch v more k = ((List.range' k more).find? (fun j => decide (v.toNat < 2 ^ j))).getD (k + more) := by
  have hle (j : Nat) : ((2 ^ j : Nat) : Int) ≤ v.toInt ↔ 2 ^ j ≤ v.toNat := by
    have := BitVec.toInt_eq_toNat_cond v
    omega
  induction more generalizing k with
  | zero => rfl
  | succ more ih =>
    simp only [lengthSearch, List.range'_succ, hle]
    split
    · next hfits =>
      rw [ih, List.find?_cons_of_neg (by simpa using hfits), Nat.add_right_comm, Nat.add_assoc]
    · next hlt => rw [List.find?_cons_of_pos (by simpa using hlt), Option.getD_some]

theorem bitLengthOf_eq {v : Word} (hv : 0 ≤ v.toInt) : bitLengthOf v = leastLength v.toNat := by
  have hrange : List.range 32 = List.range' 0 31 ++ [31] := by decide
  rw [bitLengthOf, lengthSearch_eq hv, leastLength, hrange, List.find?_append]
  cases (List.range' 0 31).find? (fun j => decide (v.toNat < 2 ^ j)) with
  | some j => rfl
  | none =>
    rw [Option.none_or, List.find?_singleton]
    split <;> rfl

/-! ## Full adder (46_full_adder.md) -/

/-- The ripple carry is the carry of addition (R220, R221). -/
theorem carryInto_eq_carry (a b : Word) (i : Nat) : carryInto a b i = BitVec.carry i a b false := by
  induction i with
  | zero => simp [carryInto, BitVec.carry_zero]
  | succ i ih =>
    rw [carryInto, ih, BitVec.carry_succ, carryOut, Bool.atLeastTwo]
    cases a.getLsbD i <;> cases b.getLsbD i <;> simp

/-- The sum accumulated so far has its sum bits below `positions` and zeros above. -/
theorem rippleSum_getLsbD (a b : Word) (positions : Nat) {q : Nat} (hq : q < 32) :
    (rippleSum a b positions).getLsbD q =
      (decide (q < positions) && sumBit (a.getLsbD q) (b.getLsbD q) (carryInto a b q)) := by
  induction positions with
  | zero => simp [rippleSum]
  | succ i ih =>
    rw [rippleSum, BitVec.getLsbD_or, ih, bool01_shiftLeft_getLsbD _ hq]
    rcases Nat.lt_trichotomy q i with h | rfl | h
    · simp [h, Nat.ne_of_lt h, Nat.lt_succ_of_lt h]
    · simp
    · simp [Nat.not_lt_of_gt h, Nat.ne_of_gt h, Nat.not_le_of_gt h]

theorem adderResult_eq (a b : Word) : adderResult a b = a + b := by
  apply BitVec.eq_of_getLsbD_eq
  intro q hq
  rw [adderResult, rippleSum_getLsbD _ _ _ hq, BitVec.getLsbD_add hq, carryInto_eq_carry]
  simp [hq, sumBit]

end Sys2Proof.Proofs
end

section
/-! SUPPORT. The statements of the interface (10_state.md): the one answer of every operation and transaction, the invariant of
a run through the state's operations, and from these the statements themselves. -/

namespace Sys2Proof.Proofs

open Sys2Proof.Machine Sys2Proof.Safety

/-! ## Every operation's answer -/

/-- An accessor whose result at a legal position is `v` answers as its rule says (R100, R242). -/
theorem withPosition_guarded {f : Nat → Word} {s : State} {v : Word} (h : f s.ports.b.toNat = v) :
    withPosition f s = .next (s.answer (guarded (LegalPosition s.ports.b) v .invalidPosition)) := by
  rw [withPosition_eq, guarded, h]

/-- An operation for nonnegative operands with result `v` on those answers as its rule says (R243). -/
theorem unlessNegative_guarded {negative : Bool} {P : Prop} [Decidable P] {result v : Word} (s : State)
    (hP : negative = true ↔ ¬ P) (h : P → result = v) :
    unlessNegative negative result s = .next (s.answer (guarded P v .negativeOperand)) := by
  rw [unlessNegative_eq, guarded]
  by_cases hp : P
  · rw [if_neg (by simp [hP, hp]), if_pos hp, h hp]
  · rw [if_pos (hP.2 hp), if_neg hp]

/-- An operation that completes with a result equal to `v` answers `v`. -/
theorem complete_eq {result v : Word} (s : State) (h : result = v) :
    complete result s = .next (s.answer (.ok v)) := by
  rw [complete, h]

/-- Everything `exec` can do: it answers the closed form of the operation's rule, and nothing else (R20, R29). -/
theorem exec_eq_answer (i : Instr) (s : State) :
    exec i s = .next (s.answer (resultOf i s.ports.a s.ports.b s.ports.c)) := by
  cases i with
  | getBit => exact withPosition_guarded ((getBitResult_eq _ _).trans (bool01_eq_truth Iff.rfl))
  | setBit => exact withPosition_guarded (by rw [setBitResult, bitAt_eq_one])
  | clearBit => exact withPosition_guarded (by rw [clearBitResult, bitAt_eq_one])
  | updateBit =>
    exact withPosition_guarded (by rw [updateBitResult_eq, clearBitResult, setBitResult, bitAt_eq_one])
  | isEven => exact complete_eq s (bool01_eq_truth (isEven_iff _))
  | isPositive => exact complete_eq s (bool01_eq_truth (isPositive_iff _))
  | isPowerOfTwo =>
    exact complete_eq s (bool01_eq_truth (by simp only [isPowerOfTwo_iff, List.any_eq_true, List.mem_range, beq_iff_eq]))
  | multiplyByTwo => exact complete_eq s (by rw [doubled_eq, BitVec.ofInt_mul, BitVec.ofInt_toInt]; rfl)
  | divideByTwo => exact complete_eq s (by rw [← halved_toInt, BitVec.ofInt_toInt])
  | switchSign => exact complete_eq s (by rw [negated_eq, BitVec.ofInt_neg, BitVec.ofInt_toInt])
  | multiply =>
    exact complete_eq s (by rw [mulResult_eq, BitVec.ofInt_mul, BitVec.ofInt_toInt, BitVec.ofInt_toInt])
  | multiplyUnsigned =>
    exact unlessNegative_guarded s
      (by rw [Bool.or_eq_true, isNegative_iff, isNegative_iff]; omega)
      (fun _ => by rw [umulResult_eq, BitVec.ofNat_mul, BitVec.ofNat_toNat, BitVec.ofNat_toNat,
        BitVec.setWidth_eq, BitVec.setWidth_eq])
  | countSetBits => exact complete_eq s (by rw [popcount_eq])
  | bitsDiff => exact complete_eq s (by rw [popcount_xor])
  | bitLength =>
    exact unlessNegative_guarded s (by rw [isNegative_iff, not_le]) (fun h => by rw [bitLengthOf_eq h])
  | fullAdder =>
    exact complete_eq s (by rw [adderResult_eq, BitVec.ofInt_add, BitVec.ofInt_toInt, BitVec.ofInt_toInt])
  | toggleBit => exact withPosition_guarded (by rw [toggleBitResult, bitAt_eq_one])

/-- A transaction answers the response the rules give its request (R245). -/
theorem issue_eq_answer (r : Request) (s : State) :
    issue r s = .next ((s.present r).answer (responseOf r)) := by
  cases h : decode r.cmd with
  | none => rw [issue_illegal h, responseOf, h]
  | some i =>
    rw [issue_legal h, exec_eq_answer, responseOf, h]
    rfl

/-! ## The invariant through the state's operations -/

/-- The invariant speaks of the record and the outputs alone. -/
theorem inv_congr {s t : State} (hrecord : t.record = s.record) (hresponse : t.response = s.response) (hs : Safety.Inv s) :
    Safety.Inv t := by
  unfold Safety.Inv RecordIsTrue OutputsAreLast at *
  rwa [hrecord, hresponse]

/-- A record stays true when the exchange added to it is true. -/
theorem recordIsTrue_append {s t : State} {e : Exchange} (hs : RecordIsTrue s) (hrecord : t.record = s.record ++ [e])
    (he : e.response = none ∨ e.response = some (responseOf e.request)) : RecordIsTrue t := by
  intro x hx
  rw [hrecord, List.mem_append, List.mem_singleton] at hx
  rcases hx with hx | rfl
  · exact hs x hx
  · exact he

/-- With no response to read, the outputs are as they should be. -/
theorem outputsAreLast_of_none {s : State} (h : s.response = none) : OutputsAreLast s := by
  intro r hr
  rw [h] at hr
  cases hr

theorem inv_answer {s : State} (hs : Safety.Inv s) : Safety.Inv (s.answer (responseOf s.ports)) :=
  ⟨recordIsTrue_append hs.1 (s.answer_record _) (.inr rfl),
    fun _ hr => ⟨⟨s.ports, some (responseOf s.ports)⟩, by simp, hr⟩⟩

theorem inv_resetOutputs {s : State} (hs : Safety.Inv s) : Safety.Inv s.resetOutputs :=
  ⟨hs.1, outputsAreLast_of_none s.resetOutputs_response⟩

theorem inv_abandon {s : State} (hs : Safety.Inv s) : Safety.Inv s.abandon :=
  ⟨recordIsTrue_append hs.1 s.abandon_record (.inl rfl), outputsAreLast_of_none s.abandon_response⟩

theorem inv_present {s : State} (r : Request) (hs : Safety.Inv s) : Safety.Inv (s.present r) := inv_congr rfl rfl hs

/-- Every event of the host that has a meaning keeps the invariant. -/
theorem takeEvent_keeps_inv {e : HostEvent} {s t : State} (hs : Safety.Inv s) (h : takeEvent e s = .next t) : Safety.Inv t := by
  cases e with
  | command r =>
    rw [takeEvent, issue_eq_answer] at h
    cases h
    exact inv_answer (inv_present r hs)
  | reset =>
    cases h
    exact inv_resetOutputs hs
  | commandReset r =>
    cases h
    exact inv_abandon (inv_present r hs)
  | commandUnheld r => cases h

/-! ## The STATUS word -/

/-- The STATUS words of the four outcomes (R26). -/
@[simp] theorem statusWord_ok (v : Word) : statusWord (.ok v) = 0#32 := rfl
@[simp] theorem statusWord_illegalCommand : statusWord (.fault .illegalCommand) = 1#32 := rfl
@[simp] theorem statusWord_invalidPosition : statusWord (.fault .invalidPosition) = 2#32 := rfl
@[simp] theorem statusWord_negativeOperand : statusWord (.fault .negativeOperand) = 3#32 := rfl

/-! ## The statements -/

/-- Settles O49: a step is idle, or it takes one event, which keeps the invariant. -/
theorem stepKeepsTheRecordTrue : Obligations.StepKeepsTheRecordTrue := by
  intro s t hs hstep
  cases hhost : s.host with
  | nil =>
    rw [step_idle hhost] at hstep
    cases hstep
    exact inv_congr rfl rfl hs
  | cons e rest =>
    rw [step_event hhost] at hstep
    refine takeEvent_keeps_inv ?_ hstep
    exact inv_congr rfl rfl hs

/-- Settles O12: the one answer of each operation, and the frame of an answer. -/
theorem execChangesOnlyTheResponse : Obligations.ExecChangesOnlyTheResponse := by
  intro i s
  exact ⟨_, _, exec_eq_answer i s, rfl, rfl, rfl, rfl, rfl⟩

/-- Settles O6: the step at a legal command runs it on the request. -/
theorem resetIsIdleAndReady : Obligations.ResetIsIdleAndReady := by
  refine ⟨rfl, rfl, rfl, fun r rest i hi => ?_⟩
  rw [step_event rfl, takeEvent, issue_legal hi]
  rfl

/-- Settles O43: each of these operations completes with a truth value. -/
theorem booleanResultsAreZeroOrOne : Obligations.BooleanResultsAreZeroOrOne := by
  have hcomplete (p : Bool) (s : State) : complete (bool01 p) s = .next (s.answer (.ok 0#32)) ∨
      complete (bool01 p) s = .next (s.answer (.ok 1#32)) :=
    (bool01_zero_or_one p).imp (complete_eq s) (complete_eq s)
  rintro i s (rfl | rfl | rfl | ⟨rfl, hlegal⟩)
  · exact hcomplete (isEven s.ports.a) s
  · exact hcomplete (isPositive s.ports.a) s
  · exact hcomplete (isPowerOfTwo s.ports.a) s
  · have hget : exec .getBit s = complete (getBitResult s.ports.a s.ports.b.toNat) s := withPosition_legal hlegal
    rw [hget]
    exact hcomplete _ s

/-- Settles O44: STATUS is the response's status word, one of four codes. -/
theorem statusShowsTheOutcome : Obligations.StatusShowsTheOutcome := by
  intro s r hr
  have hres (v : Word) (hv : r = .ok v) : s.resOut = v := State.resOut_of_ok (hv ▸ hr)
  rw [State.statusOut_of_response hr]
  rcases r with v | (_ | _ | _)
  · simpa using hres
  · simp
  · simp
  · simp

/-- Settles O48: at reset the record is empty and there is no response. -/
theorem resetRecordIsTrue : Obligations.ResetRecordIsTrue :=
  ⟨by simp [RecordIsTrue, State.reset], outputsAreLast_of_none rfl⟩

end Sys2Proof.Proofs
end

section
/-! SUPPORT. The statements of memory and ordering (20_memory.md): the step at a command, and from it a run of commands. -/

namespace Sys2Proof.Proofs

open Sys2Proof.Machine Sys2Proof.Safety

/-! ## The state at which a command runs -/

@[simp] theorem atIssue_ports (s : State) (r : Request) (rest : List HostEvent) : (atIssue s r rest).ports = r := rfl
@[simp] theorem atIssue_record (s : State) (r : Request) (rest : List HostEvent) :
    (atIssue s r rest).record = s.record := rfl
@[simp] theorem atIssue_host (s : State) (r : Request) (rest : List HostEvent) : (atIssue s r rest).host = rest := rfl

/-- Everything a step at a command can do: it answers what the rules give the request, which reads nothing of the state
(R20, R245). -/
theorem step_command {s : State} {r : Request} {rest : List HostEvent} (h : s.host = .command r :: rest) :
    step s = .next ((atIssue s r rest).answer (responseOf r)) := by
  rw [step_event h, takeEvent, issue_eq_answer]
  rfl

/-! ## The statements -/

/-- Settles O45: in both states the step answers what the rules give the request. -/
theorem responseDependsOnTheRequestAlone : Obligations.ResponseDependsOnTheRequestAlone :=
  fun _ _ r _ _ hs hs' => ⟨responseOf r, step_command hs, step_command hs'⟩

/-- Settles O47, by induction on the requests: the first step answers the first of them, and leaves the others next. -/
theorem runAnswersCommandsInOrder : Obligations.RunAnswersCommandsInOrder := by
  intro rs
  induction rs with
  | nil =>
    intro s rest hs
    exact ⟨s, rfl, hs, by simp⟩
  | cons r rs ih =>
    intro s rest hs
    have hstep : step s = .next ((atIssue s r (rs.map .command ++ rest)).answer (responseOf r)) := step_command hs
    obtain ⟨t, hrun, hhost, hrecord⟩ := ih ((atIssue s r (rs.map .command ++ rest)).answer (responseOf r)) rest (by simp)
    refine ⟨t, (run_succ hstep).trans hrun, hhost, ?_⟩
    simpa using hrecord

end Sys2Proof.Proofs
end

section
/-! SUPPORT. The statements of the encoding (30_encoding.md): the decoder as the inverse of the encoder and its refusals as
numbers, the ports an operation's answer reads, and from these the statements themselves. -/

namespace Sys2Proof.Proofs

open Sys2Proof.Machine Sys2Proof.Safety

/-! ## The decoder and the encoder -/

/-- The opcode of an operation is assigned (R62). -/
theorem encode_toNat_le (i : Instr) : (encode i).toNat ≤ 0x10 := by cases i <;> decide

/-- The decoder inverts the encoder, and selects an operation on no other word (R62, R67). -/
theorem decode_eq_some_iff (cmd : Word) (i : Instr) : decode cmd = some i ↔ cmd = encode i := by
  rw [decode_eq, ← BitVec.toNat_inj]
  split
  · exact opcodeMap_eq_some_iff cmd.toNat i
  · next hlarge =>
    have hopc := encode_toNat_le i
    exact iff_of_false (by simp) (by omega)

theorem decode_encode (i : Instr) : decode (encode i) = some i := (decode_eq_some_iff _ i).2 rfl

/-- The opcode map leaves out exactly the opcodes above 0x10 (R62). -/
theorem opcodeMap_eq_none_iff (opc : Nat) : opcodeMap opc = none ↔ 0x11 ≤ opc := by
  have hassigned : ∀ k < 0x11, opcodeMap k ≠ none := by decide
  refine ⟨fun hnone => Nat.le_of_not_lt fun hlt => hassigned opc hlt hnone, fun hlarge => ?_⟩
  refine Option.eq_none_iff_forall_ne_some.2 fun i hi => ?_
  have hopc := (opcodeMap_eq_some_iff opc i).1 hi
  have hbound := encode_toNat_le i
  omega

/-- The decoder refuses exactly the words above 0x10 (R66). -/
theorem decode_eq_none_iff (cmd : Word) : decode cmd = none ↔ 0x11 ≤ cmd.toNat := by
  rw [decode_eq]
  split
  · exact opcodeMap_eq_none_iff cmd.toNat
  · next hlarge => exact iff_of_true rfl (by omega)

/-- The reserved words, as R66 names them by their fields, are the words above 0x10. -/
theorem reservedWord_iff (cmd : Word) : ReservedWord cmd ↔ 0x11 ≤ cmd.toNat := by
  have hrsv : cmd.extractLsb' 5 27 = 0#27 ↔ cmd.toNat < 32 := rsvField_eq_zero_iff cmd
  have hopc : (cmd.extractLsb' 0 5).toNat = cmd.toNat % 32 := opcField_toNat cmd
  have hbound : (0x11#5).toNat = 0x11 := rfl
  rw [ReservedWord, ne_eq, hrsv, BitVec.le_def, hopc, hbound]
  omega

theorem decode_eq_none_iff_reservedWord (cmd : Word) : decode cmd = none ↔ ReservedWord cmd :=
  (decode_eq_none_iff cmd).trans (reservedWord_iff cmd).symm

/-- A reserved word is answered ILLEGAL_COMMAND, whatever the operands (R66, R241). -/
theorem responseOf_reservedWord {r : Request} (h : ReservedWord r.cmd) : responseOf r = .fault .illegalCommand := by
  rw [responseOf, (decode_eq_none_iff_reservedWord r.cmd).2 h]

/-! ## The ports an answer reads (R63, R64) -/

/-- An operation that does not read C answers the same whatever C carries. -/
theorem resultOf_of_portsRead_le_two {i : Instr} (h : portsRead i ≤ 2) (a b c c' : Word) :
    resultOf i a b c = resultOf i a b c' := by
  cases i with
  | updateBit => exact absurd h (by decide)
  | _ => rfl

/-- An operation that reads A alone answers the same whatever B and C carry. -/
theorem resultOf_of_portsRead_le_one {i : Instr} (h : portsRead i ≤ 1) (a b b' c c' : Word) :
    resultOf i a b c = resultOf i a b' c' := by
  cases i with
  | getBit | setBit | clearBit | updateBit | multiply | multiplyUnsigned | bitsDiff | fullAdder | toggleBit =>
    exact absurd h (by decide)
  | _ => rfl

theorem portsRead_le_two {i : Instr} (h : i ≠ .updateBit) : portsRead i ≤ 2 := by
  cases i with
  | updateBit => exact absurd rfl h
  | _ => decide

/-! ## The statements -/

/-- Settles O1: the decoder inverts the encoder. -/
theorem decodeInvertsEncodeOnEveryWord : Obligations.DecodeInvertsEncodeOnEveryWord := decode_eq_some_iff

/-- Settles O3: the decoder's refusals are the reserved words, every other word is that of the operation it decodes to, and
the step answers as the rules say. -/
theorem reservedWordsAreIllegalCommands : Obligations.ReservedWordsAreIllegalCommands := by
  refine ⟨decode_eq_none_iff_reservedWord, fun cmd => ?_, statusWord_illegalCommand, fun s r rest hhost hreserved => ?_⟩
  · cases h : decode cmd with
    | none => exact .inl ((decode_eq_none_iff_reservedWord cmd).1 h)
    | some i => exact .inr ⟨i, (decode_eq_some_iff cmd i).1 h, rfl⟩
  · rw [step_command hhost, responseOf_reservedWord hreserved]

/-- Settles O42: each operation's one answer is the same function of the ports it reads. -/
theorem unreadPortsHaveNoEffect : Obligations.UnreadPortsHaveNoEffect := by
  intro i s s' ha hports
  have hsame : resultOf i s.ports.a s.ports.b s.ports.c = resultOf i s'.ports.a s'.ports.b s'.ports.c := by
    rw [ha]
    rcases hports with ⟨hi, hb⟩ | honlyA
    · rw [hb]
      exact resultOf_of_portsRead_le_two (portsRead_le_two hi) ..
    · have hreads : portsRead i ≤ 1 := by
        rcases honlyA with rfl | rfl | rfl | rfl | rfl | rfl | rfl | rfl <;> decide
      exact resultOf_of_portsRead_le_one hreads ..
  exact ⟨_, exec_eq_answer i s, hsame ▸ exec_eq_answer i s'⟩

/-- Settles O2: the words of the map are those of the encoder, and the reserved opcodes are above 0x10. -/
theorem opcodeMapWordsDecode : Obligations.OpcodeMapWordsDecode := by
  refine ⟨decode_encode .getBit, decode_encode .setBit, decode_encode .clearBit, decode_encode .updateBit,
    decode_encode .isEven, decode_encode .isPositive, decode_encode .isPowerOfTwo, decode_encode .multiplyByTwo,
    decode_encode .divideByTwo, decode_encode .switchSign, decode_encode .multiply, decode_encode .multiplyUnsigned,
    decode_encode .countSetBits, decode_encode .bitsDiff, decode_encode .bitLength, decode_encode .fullAdder,
    decode_encode .toggleBit, fun k => ?_⟩
  rw [decode_eq_none_iff, BitVec.toNat_ofNat]
  omega

/-- Settles O50: the assembler run on each of the seven lines. Two of the errors are operands that are not those of the
ports read, one is a name that is no mnemonic, one a literal above 2^31 - 1. -/
theorem assemblyExamplesDenoteTheirWords : Obligations.AssemblyExamplesDenoteTheirWords := by
  refine ⟨?_, ?_, ?_, ?_, ?_, ?_, ?_⟩ <;> decide

end Sys2Proof.Proofs
end

section
/-! SUPPORT. The statements of the bit accessors (41_bit_accessors.md): each accessor's answer at a position of [0, 31], the
bits of the four written words, and from these the statements themselves. -/

namespace Sys2Proof.Proofs

open Sys2Proof.Machine Sys2Proof.Safety

/-! ## The answer at a position (R100) -/

/-- An accessor answers its result at the position that port B carries, in every state (R100). -/
theorem yields_of_withPosition {i : Instr} {f : Nat → Word} {a c : Word} {p : Nat} (hp : p < 32)
    (hexec : ∀ s : State, s.ports.a = a → s.ports.c = c → exec i s = withPosition f s) :
    Yields i a (BitVec.ofNat 32 p) c (f p) := by
  intro s ha hb hc
  rw [hexec s ha hc, withPosition, hb, checkPos_ofNat hp]
  rfl

/-- An operation whose rule is guarded by the position answers the guarded word at a legal position and INVALID_POSITION at
an illegal one (R100, R242). -/
theorem exec_of_guarded_position {i : Instr} {s : State} {v : Word}
    (h : resultOf i s.ports.a s.ports.b s.ports.c = guarded (LegalPosition s.ports.b) v .invalidPosition) :
    (LegalPosition s.ports.b → exec i s = .next (s.answer (.ok v))) ∧
    (IllegalPosition s.ports.b → exec i s = .next (s.answer (.fault .invalidPosition))) := by
  rw [exec_eq_answer, h, guarded]
  constructor
  · intro hlegal
    rw [if_pos hlegal]
  · intro hillegal
    rw [if_neg (by omega)]

section
variable {p : Nat} (hp : p < 32) (n c : Word)
include hp

/-- getBit answers the bit's value, whichever way that is known (R101). -/
theorem yields_getBit {x : Bool} (hx : n.getLsbD p = x) : Yields .getBit n (BitVec.ofNat 32 p) c (bool01 x) := by
  rw [← hx, ← getBitResult_eq]
  exact yields_of_withPosition hp fun _ ha _ => ha ▸ rfl

theorem yields_setBit : Yields .setBit n (BitVec.ofNat 32 p) c (setBitResult n p) :=
  yields_of_withPosition hp fun _ ha _ => ha ▸ rfl

theorem yields_clearBit : Yields .clearBit n (BitVec.ofNat 32 p) c (clearBitResult n p) :=
  yields_of_withPosition hp fun _ ha _ => ha ▸ rfl

theorem yields_updateBit : Yields .updateBit n (BitVec.ofNat 32 p) c (updateBitResult n p c) :=
  yields_of_withPosition (f := fun p => updateBitResult n p c) hp fun _ ha hc => ha ▸ hc ▸ rfl

theorem yields_toggleBit : Yields .toggleBit n (BitVec.ofNat 32 p) c (toggleBitResult n p) :=
  yields_of_withPosition hp fun _ ha _ => ha ▸ rfl

end

/-! ## The bits of the written words: bit p by the rule, every other bit that of n (R102 to R105, R107) -/

section
variable {q : Nat} (hq : q < 32) (n : Word) (p : Nat)
include hq

theorem setBitResult_getLsbD : (setBitResult n p).getLsbD q = if q = p then true else n.getLsbD q := by
  rw [setBitResult, BitVec.getLsbD_or, one_getLsbD hq]
  by_cases h : q = p <;> simp [h]

theorem clearBitResult_getLsbD : (clearBitResult n p).getLsbD q = if q = p then false else n.getLsbD q := by
  rw [clearBitResult, BitVec.getLsbD_and, BitVec.getLsbD_not, one_getLsbD hq]
  by_cases h : q = p <;> simp [h, hq]

theorem updateBitResult_getLsbD (c : Word) :
    (updateBitResult n p c).getLsbD q = if q = p then c != 0#32 else n.getLsbD q := by
  rw [updateBitResult_eq]
  split
  · next hc => rw [clearBitResult_getLsbD hq, hc, bne_self_eq_false]
  · next hc => rw [setBitResult_getLsbD hq, bne_iff_ne.2 hc]

theorem toggleBitResult_getLsbD : (toggleBitResult n p).getLsbD q = if q = p then !n.getLsbD q else n.getLsbD q := by
  rw [toggleBitResult, BitVec.getLsbD_xor, one_getLsbD hq]
  by_cases h : q = p <;> simp [h]

end

theorem toggleBitResult_toggleBitResult (n : Word) (p : Nat) : toggleBitResult (toggleBitResult n p) p = n := by
  rw [toggleBitResult, toggleBitResult, BitVec.xor_assoc, BitVec.xor_self, BitVec.xor_zero]

theorem bool01_not (x : Bool) : bool01 (!x) = 1#32 - bool01 x := by cases x <;> rfl

/-! ## The statements -/

/-- Settles O18: each law is the answers of its two accessors and the bit p of the word that the first one writes. -/
theorem accessorsAgree : Obligations.AccessorsAgree := by
  intro n c c' p hp
  have hset (w : Word) : (setBitResult w p).getLsbD p = true := by rw [setBitResult_getLsbD hp, if_pos rfl]
  have hclear (w : Word) : (clearBitResult w p).getLsbD p = false := by rw [clearBitResult_getLsbD hp, if_pos rfl]
  have hupdate : (updateBitResult n p c).getLsbD p = (c != 0#32) := by rw [updateBitResult_getLsbD hp, if_pos rfl]
  have htoggle : (toggleBitResult n p).getLsbD p = !n.getLsbD p := by rw [toggleBitResult_getLsbD hp, if_pos rfl]
  refine ⟨?set_get, ?clear_get, ?update_get, ?set_clear, ?clear_set, ?toggle_get, ?toggle_toggle⟩
  case set_get => exact ⟨_, yields_setBit hp n c, yields_getBit hp _ c' (hset n)⟩
  case clear_get => exact ⟨_, yields_clearBit hp n c, yields_getBit hp _ c' (hclear n)⟩
  case update_get =>
    have htruth : bool01 (c != 0#32) = if c ≠ 0#32 then 1#32 else 0#32 := bool01_eq_truth bne_iff_ne
    exact ⟨_, yields_updateBit hp n c, htruth ▸ yields_getBit hp _ c' hupdate⟩
  case set_clear => exact ⟨_, _, yields_setBit hp n c, yields_clearBit hp _ c', hclear _⟩
  case clear_set => exact ⟨_, _, yields_clearBit hp n c, yields_setBit hp _ c', hset _⟩
  case toggle_get =>
    exact ⟨_, _, yields_toggleBit hp n c, yields_getBit hp n c rfl, bool01_not _ ▸ yields_getBit hp _ c' htoggle⟩
  case toggle_toggle =>
    have hback := yields_toggleBit hp (toggleBitResult n p) c'
    rw [toggleBitResult_toggleBitResult] at hback
    exact ⟨_, yields_toggleBit hp n c, hback⟩

/-- Settles O19: away from bit p the written word of each of the four is n. -/
theorem accessorsChangeNoOtherBit : Obligations.AccessorsChangeNoOtherBit := by
  rintro i n c p (rfl | rfl | rfl | rfl) hp
  · exact ⟨_, yields_setBit hp n c, fun q hq hne => by rw [setBitResult_getLsbD hq, if_neg hne]⟩
  · exact ⟨_, yields_clearBit hp n c, fun q hq hne => by rw [clearBitResult_getLsbD hq, if_neg hne]⟩
  · exact ⟨_, yields_updateBit hp n c, fun q hq hne => by rw [updateBitResult_getLsbD hq, if_neg hne]⟩
  · exact ⟨_, yields_toggleBit hp n c, fun q hq hne => by rw [toggleBitResult_getLsbD hq, if_neg hne]⟩

/-- Settles O13: getBit's rule is the bit, guarded by the position. -/
theorem getBitReadsTheBit : Obligations.GetBitReadsTheBit :=
  ⟨decode_encode .getBit, fun _ => exec_of_guarded_position rfl⟩

/-- Settles O14: setBit's rule is the word with the bit, guarded by the position. -/
theorem setBitForcesTheBitToOne : Obligations.SetBitForcesTheBitToOne :=
  ⟨decode_encode .setBit, fun _ => exec_of_guarded_position rfl⟩

/-- Settles O15: clearBit's rule is the word without the bit, guarded by the position. -/
theorem clearBitForcesTheBitToZero : Obligations.ClearBitForcesTheBitToZero :=
  ⟨decode_encode .clearBit, fun _ => exec_of_guarded_position rfl⟩

/-- Settles O16: updateBit's rule is guarded by the position, and chooses by whether C is zero. -/
theorem updateBitWritesTheTruthValue : Obligations.UpdateBitWritesTheTruthValue := by
  refine ⟨decode_encode .updateBit, fun s => ?_⟩
  obtain ⟨hlegal, hillegal⟩ := exec_of_guarded_position (i := .updateBit) (s := s) rfl
  refine ⟨fun hpos hc => ?_, fun hpos hc => ?_, hillegal⟩
  · rw [hlegal hpos, if_pos hc, bitAt]
  · rw [hlegal hpos, if_neg hc, bitAt]

/-- Settles O17: toggleBit's rule is the word with the bit inverted, guarded by the position. -/
theorem toggleBitInvertsTheBit : Obligations.ToggleBitInvertsTheBit :=
  ⟨decode_encode .toggleBit, fun _ => exec_of_guarded_position rfl⟩

end Sys2Proof.Proofs
end

section
/-! SUPPORT. The statements of the predicates (42_predicates.md): each predicate as its test on the bits, the answer and the
meaning of a test, and from these the statements themselves. -/

namespace Sys2Proof.Proofs

open Sys2Proof.Machine Sys2Proof.Safety

/-! ## The tests on the bits -/

theorem isEven_iff_getLsbD_zero (n : Word) : isEven n = true ↔ n.getLsbD 0 = false := by
  rw [isEven, Bool.not_eq_true']

theorem isPositive_iff_getLsbD_last (n : Word) : isPositive n = true ↔ n.getLsbD 31 = false ∧ n ≠ 0#32 := by
  rw [isPositive, isNegative, Bool.and_eq_true, Bool.not_eq_true', bne_iff_ne]

theorem isPowerOfTwo_iff_and_sub_one (n : Word) : isPowerOfTwo n = true ↔ n &&& (n - 1#32) = 0#32 := by
  rw [isPowerOfTwo, beq_iff_eq]

/-! ## The answer of a predicate -/

/-- An operation that completes with the truth value of `p` answers the word 1 or 0 by any test that decides `p`, and two
such tests hold of the same operands (R27). -/
theorem exec_of_predicate {i : Instr} {s : State} {p : Bool} {Test Meaning : Prop} [Decidable Test]
    (hexec : exec i s = complete (bool01 p) s) (htest : p = true ↔ Test) (hmeaning : p = true ↔ Meaning) :
    exec i s = .next (s.answer (.ok (if Test then 1#32 else 0#32))) ∧ (Test ↔ Meaning) :=
  ⟨hexec.trans (complete_eq s (bool01_eq_truth htest)), htest.symm.trans hmeaning⟩

/-! ## The statements -/

/-- Settles O23: isEven is the test of bit 0, and the parity of the signed value. -/
theorem isEvenIsParityOfTheSignedValue : Obligations.IsEvenIsParityOfTheSignedValue :=
  ⟨decode_encode .isEven, fun _ => exec_of_predicate rfl (isEven_iff_getLsbD_zero _) (isEven_iff _)⟩

/-- Settles O24: isPositive is the test of bit 31 and of zero, and the sign of the signed value. -/
theorem isPositiveExcludesZero : Obligations.IsPositiveExcludesZero :=
  ⟨decode_encode .isPositive, fun _ => exec_of_predicate rfl (isPositive_iff_getLsbD_last _) (isPositive_iff _)⟩

/-- Settles O25: isPowerOfTwo is the bitwise test, which holds of zero and of the one-bit words. -/
theorem isPowerOfTwoHoldsOfZeroAndOneBitWords : Obligations.IsPowerOfTwoHoldsOfZeroAndOneBitWords :=
  ⟨decode_encode .isPowerOfTwo,
    fun _ => exec_of_predicate rfl (isPowerOfTwo_iff_and_sub_one _) (isPowerOfTwo_iff _)⟩

/-- Settles O22: the rule of each of the ten is a result without a guard. -/
theorem tenOperationsNeverFault : Obligations.TenOperationsNeverFault := by
  intro i s hi
  rw [exec_eq_answer]
  rcases hi with rfl | rfl | rfl | rfl | rfl | rfl | rfl | rfl | rfl | rfl <;> exact ⟨_, rfl⟩

end Sys2Proof.Proofs
end

section
/-! SUPPORT. The statements of the scaling shifts (43_scaling_shifts.md): the answer of an operation that reads port A alone, the
bits of the doubled and the halved word, the laws between the three words, and from these the statements themselves. -/

namespace Sys2Proof.Proofs

open Sys2Proof.Machine Sys2Proof.Safety

/-! ## The answers -/

/-- An operation that completes with a function of port A answers it in every state, whatever B and C carry (R64). -/
theorem yields_of_complete {i : Instr} {f : Word → Word} (hexec : ∀ s : State, exec i s = complete (f s.ports.a) s)
    (a b c : Word) : Yields i a b c (f a) := by
  intro s ha _ _
  rw [hexec, ha, complete]

theorem yields_multiplyByTwo (n b c : Word) : Yields .multiplyByTwo n b c (doubled n) :=
  yields_of_complete (fun _ => rfl) n b c

theorem yields_divideByTwo (n b c : Word) : Yields .divideByTwo n b c (halved n) :=
  yields_of_complete (fun _ => rfl) n b c

theorem yields_switchSign (n b c : Word) : Yields .switchSign n b c (negated n) :=
  yields_of_complete (fun _ => rfl) n b c

/-! ## The bits of the shifted words (R150, R151) -/

theorem doubled_getLsbD_zero (n : Word) : (doubled n).getLsbD 0 = false := by
  simp [doubled]

theorem doubled_getLsbD_succ (n : Word) {k : Nat} (hk : k < 31) : (doubled n).getLsbD (k + 1) = n.getLsbD k := by
  have hk1 : k + 1 < 32 := Nat.succ_lt_succ hk
  rw [doubled, BitVec.getLsbD_shiftLeft]
  simp [hk1]

theorem halved_getLsbD (n : Word) {k : Nat} (hk : k < 31) : (halved n).getLsbD k = n.getLsbD (k + 1) := by
  have hk1 : 1 + k < 32 := by omega
  rw [halved, BitVec.getLsbD_sshiftRight, if_pos hk1, Nat.add_comm 1 k]
  simp [Nat.lt_succ_of_lt hk]

/-- The shift fills with the sign (R151). -/
theorem halved_getLsbD_last (n : Word) : (halved n).getLsbD 31 = n.getLsbD 31 := by
  rw [halved, BitVec.getLsbD_sshiftRight]
  exact BitVec.msb_eq_getLsbD_last n

/-! ## The laws between the three words (R152, R153) -/

theorem doubled_eq_ofInt (n : Word) : doubled n = BitVec.ofInt 32 (2 * n.toInt) := by
  rw [doubled_eq, BitVec.ofInt_mul, BitVec.ofInt_toInt]
  rfl

theorem negated_eq_ofInt (n : Word) : negated n = BitVec.ofInt 32 (-n.toInt) := by
  rw [negated_eq, BitVec.ofInt_neg, BitVec.ofInt_toInt]

theorem negated_negated (n : Word) : negated (negated n) = n := by
  rw [negated_eq, negated_eq, neg_neg]

/-- The words that negation fixes are 0 and INT_MIN (R153). -/
theorem negated_eq_self_iff (n : Word) : negated n = n ↔ n = 0#32 ∨ n = 0x80000000#32 := by
  rw [negated_eq]
  bv_omega

/-- Doubling the half restores every bit but bit 0, which the half has lost (R153). -/
theorem doubled_halved (n : Word) : doubled (halved n) = clearBitResult n 0 := by
  apply BitVec.eq_of_getLsbD_eq
  intro k hk
  rw [clearBitResult_getLsbD hk]
  cases k with
  | zero => exact doubled_getLsbD_zero _
  | succ k => rw [doubled_getLsbD_succ _ (by omega), halved_getLsbD _ (by omega), if_neg k.succ_ne_zero]

/-- Halving the double restores bits 0 to 30, and puts bit 30 at bit 31 (R153). -/
theorem halved_doubled_eq_self_iff (n : Word) : halved (doubled n) = n ↔ n.getLsbD 31 = n.getLsbD 30 := by
  have hlast : (halved (doubled n)).getLsbD 31 = n.getLsbD 30 := by
    rw [halved_getLsbD_last, doubled_getLsbD_succ _ (by decide)]
  have hlow {k : Nat} (hk : k < 31) : (halved (doubled n)).getLsbD k = n.getLsbD k := by
    rw [halved_getLsbD _ hk, doubled_getLsbD_succ _ hk]
  constructor
  · intro h
    rw [← hlast, h]
  · intro h
    apply BitVec.eq_of_getLsbD_eq
    intro k hk
    obtain hk | rfl : k < 31 ∨ k = 31 := by omega
    · exact hlow hk
    · rw [hlast, h]

/-! ## The statements -/

/-- Settles O27: the halved word's signed value is the floor, and its bits are those of A moved down under the sign. -/
theorem divideByTwoRoundsDown : Obligations.DivideByTwoRoundsDown := by
  refine ⟨decode_encode .divideByTwo, fun s => ⟨halved s.ports.a, rfl, ?_, halved_getLsbD_last _, fun _ => halved_getLsbD _⟩⟩
  rw [halved_toInt, Int.fdiv_eq_ediv_of_nonneg _ (by decide)]

/-- Settles O29: each law is the answers of its operations and the law between their words. -/
theorem scalingShiftLaws : Obligations.ScalingShiftLaws := by
  intro n b c
  refine ⟨⟨negated n, yields_switchSign n b c, ?switch_switch, negated_eq_self_iff n⟩,
    ⟨halved n, yields_divideByTwo n b c, ?divide_multiply⟩,
    ⟨doubled n, halved (doubled n), yields_multiplyByTwo n b c, yields_divideByTwo _ b c, halved_doubled_eq_self_iff n⟩⟩
  case switch_switch => simpa only [negated_negated] using yields_switchSign (negated n) b c
  case divide_multiply =>
    have hmask : clearBitResult n 0 = n &&& 0xFFFFFFFE#32 := rfl
    simpa only [doubled_halved, hmask] using yields_multiplyByTwo (halved n) b c

/-- Settles O26: the shifted word is the wrapped double. -/
theorem multiplyByTwoDoublesAndWraps : Obligations.MultiplyByTwoDoublesAndWraps :=
  ⟨decode_encode .multiplyByTwo, fun s => ⟨complete_eq s (doubled_eq_ofInt _), (doubled_eq_ofInt _).symm⟩⟩

/-- Settles O28: the complement plus one is the wrapped negation, which fixes INT_MIN. -/
theorem switchSignNegatesAndWraps : Obligations.SwitchSignNegatesAndWraps :=
  ⟨decode_encode .switchSign, fun _ =>
    ⟨rfl, negated_eq_ofInt _, fun hmin => ((negated_eq_self_iff _).2 (.inr hmin)).trans hmin⟩⟩

end Sys2Proof.Proofs
end

section
/-! SUPPORT. The statements of the multipliers (44_multiplication.md): the number of steps of the signed recursion in closed
form, its loop form, the sum and the steps of the shift-and-add loop, and from these the statements themselves. -/

namespace Sys2Proof.Proofs

open Sys2Proof.Machine Sys2Proof.Safety

/-! ## The answers -/

/-- An operation whose rule has no guard on these operands answers the word of its rule, in every state. -/
theorem yields_of_resultOf {i : Instr} {a b c v : Word} (h : resultOf i a b c = .ok v) : Yields i a b c v := by
  rintro s rfl rfl rfl
  rw [exec_eq_answer, h]

/-- An operation for nonnegative operands answers its word on those and NEGATIVE_OPERAND on the others (R243). -/
theorem exec_of_guarded_operands {i : Instr} {s : State} {P : Prop} [Decidable P] {v : Word}
    (h : resultOf i s.ports.a s.ports.b s.ports.c = guarded P v .negativeOperand) :
    (P → exec i s = .next (s.answer (.ok v))) ∧ (¬ P → exec i s = .next (s.answer (.fault .negativeOperand))) := by
  rw [exec_eq_answer, h, guarded]
  constructor
  · intro hP
    rw [if_pos hP]
  · intro hP
    rw [if_neg hP]

/-- multiply completes with the product of the recursion on 33 calls (R170, R174). -/
theorem exec_multiply (s : State) :
    exec .multiply s = .next (s.answer (.ok (mulResult s.ports.a s.ports.b))) := rfl

/-! ## The wrapped product (R171, R176) -/

theorem ofInt_toInt_mul_toInt (a b : Word) : BitVec.ofInt 32 (a.toInt * b.toInt) = a * b := by
  rw [BitVec.ofInt_mul, BitVec.ofInt_toInt, BitVec.ofInt_toInt]

theorem ofNat_toNat_mul_toNat (a b : Word) : BitVec.ofNat 32 (a.toNat * b.toNat) = a * b := by
  rw [← BitVec.toNat_inj, BitVec.toNat_ofNat, BitVec.toNat_mul]

/-- A number survives as the signed value of its low word exactly when it is below 2^31. -/
theorem ofNat_toInt_eq_iff (n : Nat) : (BitVec.ofNat 32 n).toInt = n ↔ n < 2 ^ 31 := by
  have hhi := BitVec.toInt_lt (x := BitVec.ofNat 32 n)
  have hint := BitVec.toInt_eq_toNat_cond (BitVec.ofNat 32 n)
  rw [BitVec.toNat_ofNat] at hint
  omega

/-- On nonnegative words the signed product is the unsigned one. -/
theorem toInt_mul_toInt_of_nonneg {x y : Word} (hx : 0 ≤ x.toInt) (hy : 0 ≤ y.toInt) :
    x.toInt * y.toInt = ((x.toNat * y.toNat : Nat) : Int) := by
  have hnat {v : Word} (hv : 0 ≤ v.toInt) : v.toInt = v.toNat := by
    have := BitVec.toInt_eq_toNat_cond v
    omega
  rw [hnat hx, hnat hy, Int.natCast_mul]

/-! ## The recursion of R170 -/

theorem mulResult_eq_zero_of_base {a b : Word} (h : a = 0#32 ∨ b = 0#32) : mulResult a b = 0#32 := by
  rw [mulResult_eq]
  rcases h with rfl | rfl <;> simp

/-- Every branch of the recursion is a call on the doubled a and the next multiplier, and a partial product. -/
theorem mulResult_next (a b : Word) :
    mulResult a b = mulResult (doubled a) (nextMultiplier b) + partialProduct a b := by
  rw [mulResult_eq, mulResult_eq, doubled_mul_nextMultiplier]

/-- The branch for even b. -/
theorem mulResult_of_even {a b : Word} (h : b.getLsbD 0 = false) : mulResult a b = mulResult (a <<< 1) (b.sshiftRight 1) := by
  have heven : isEven b = true := (isEven_iff_getLsbD_zero b).2 h
  rw [mulResult_next, nextMultiplier, partialProduct, if_pos heven, if_pos heven, BitVec.add_zero, doubled, halved]

/-- The branch for odd positive b. -/
theorem mulResult_of_odd_pos {a b : Word} (h : ¬ b.getLsbD 0 = false) (hpos : 0 < b.toInt) :
    mulResult a b = mulResult (a <<< 1) ((b - 1#32).sshiftRight 1) + a := by
  have hodd : ¬ isEven b = true := mt (isEven_iff_getLsbD_zero b).1 h
  have hbranch : isPositive b = true := (isPositive_iff b).2 hpos
  rw [mulResult_next, nextMultiplier, partialProduct, if_neg hodd, if_neg hodd, if_pos hbranch, if_pos hbranch, doubled, halved]

/-- The branch for odd negative b. -/
theorem mulResult_of_odd_neg {a b : Word} (h : ¬ b.getLsbD 0 = false) (hneg : ¬ 0 < b.toInt) :
    mulResult a b = mulResult (a <<< 1) ((b + 1#32).sshiftRight 1) - a := by
  have hodd : ¬ isEven b = true := mt (isEven_iff_getLsbD_zero b).1 h
  have hbranch : ¬ isPositive b = true := mt (isPositive_iff b).1 hneg
  rw [mulResult_next, nextMultiplier, partialProduct, if_neg hodd, if_neg hodd, if_neg hbranch, if_neg hbranch, doubled,
    halved, BitVec.zero_sub, BitVec.sub_eq_add_neg]

/-! ## The steps of the recursion (R172) -/

theorem exists_shiftLeft_eq_zero (a : Word) : ∃ k : Nat, a <<< k = 0#32 := ⟨32, BitVec.shiftLeft_eq_zero (Nat.le_refl 32)⟩

/-- The number of doublings that bring a word to 0: 32 less its trailing zeros (R172). -/
def doublingsToZero (a : Word) : Nat := Nat.find (exists_shiftLeft_eq_zero a)

/-- A word is 0 after k doublings exactly when k is enough of them. -/
theorem doublingsToZero_le_iff (a : Word) (k : Nat) : doublingsToZero a ≤ k ↔ a <<< k = 0#32 := by
  rw [doublingsToZero, Nat.find_le_iff]
  constructor
  · rintro ⟨m, hm, hzero⟩
    rw [← Nat.add_sub_cancel' hm, BitVec.shiftLeft_add, hzero, BitVec.zero_shiftLeft]
  · exact fun h => ⟨k, Nat.le_refl k, h⟩

theorem doublingsToZero_eq_zero_iff (a : Word) : doublingsToZero a = 0 ↔ a = 0#32 := by
  rw [← Nat.le_zero, doublingsToZero_le_iff, BitVec.shiftLeft_zero]

theorem doublingsToZero_le (a : Word) : doublingsToZero a ≤ 32 :=
  (doublingsToZero_le_iff a 32).2 (BitVec.shiftLeft_eq_zero (Nat.le_refl 32))

theorem doublingsToZero_doubled (a : Word) : doublingsToZero (doubled a) = doublingsToZero a - 1 := by
  apply eq_of_forall_ge_iff
  intro k
  rw [Nat.sub_le_iff_le_add, doublingsToZero_le_iff, doublingsToZero_le_iff, doubled, ← BitVec.shiftLeft_add, Nat.add_comm]

/-- The set bit z with none below it reaches bit 31 after 31 - z doublings, and the next one discards it. -/
theorem doublingsToZero_of_trailing_zeros {a : Word} {z : Nat} (hz : z < 32) (hbit : a.getLsbD z = true)
    (hlow : ∀ j, j < z → a.getLsbD j = false) : doublingsToZero a = 32 - z := by
  apply eq_of_forall_ge_iff
  intro k
  rw [doublingsToZero_le_iff]
  constructor
  · intro hzero
    by_contra hk
    have hkz : k + z < 32 := by omega
    have hmoved : (a <<< k).getLsbD (k + z) = a.getLsbD z := by
      rw [BitVec.getLsbD_shiftLeft, Nat.add_sub_cancel_left]
      simp [hkz]
    rw [hzero, BitVec.getLsbD_zero, hbit] at hmoved
    cases hmoved
  · intro hk
    apply BitVec.eq_of_getLsbD_eq
    intro q hq
    rw [BitVec.getLsbD_shiftLeft, BitVec.getLsbD_zero]
    by_cases hqk : q < k
    · simp [hqk]
    · simp [hlow (q - k) (by omega)]

/-- All 32 doublings are needed exactly for odd words. -/
theorem doublingsToZero_eq_32_iff (a : Word) : doublingsToZero a = 32 ↔ a.getLsbD 0 = true := by
  constructor
  · intro h
    by_contra hbit
    have hzero : a <<< 31 = 0#32 := by
      apply BitVec.eq_of_getLsbD_eq
      intro q hq
      have hfirst : q - 31 = 0 := by omega
      rw [BitVec.getLsbD_shiftLeft, hfirst, Bool.eq_false_of_not_eq_true hbit]
      simp
    have := (doublingsToZero_le_iff a 31).2 hzero
    omega
  · exact fun hbit => doublingsToZero_of_trailing_zeros (by decide) hbit (by simp)

/-- Half of a number has one bit less. -/
theorem size_half (n : Nat) : Nat.size (n / 2) = Nat.size n - 1 := by
  apply eq_of_forall_ge_iff
  intro k
  rw [Nat.sub_le_iff_le_add, Nat.size_le, Nat.size_le, Nat.pow_succ, Nat.div_lt_iff_lt_mul (by decide)]

theorem size_natAbs_eq_zero_iff (b : Word) : Nat.size b.toInt.natAbs = 0 ↔ b = 0#32 := by
  rw [Nat.size_eq_zero, Int.natAbs_eq_zero, ← BitVec.toInt_inj, BitVec.toInt_zero]

theorem size_natAbs_le (b : Word) : Nat.size b.toInt.natAbs ≤ 32 := by
  have hlo := BitVec.le_toInt b
  have hhi := BitVec.toInt_lt (x := b)
  exact Nat.size_le.2 (by omega)

/-- The only word whose magnitude has 32 bits is INT_MIN. -/
theorem size_natAbs_eq_32_iff (b : Word) : Nat.size b.toInt.natAbs = 32 ↔ b = 0x80000000#32 := by
  have hlo := BitVec.le_toInt b
  have hhi := BitVec.toInt_lt (x := b)
  have hle := size_natAbs_le b
  have hlt : 31 < Nat.size b.toInt.natAbs ↔ 2 ^ 31 ≤ b.toInt.natAbs := Nat.lt_size
  have hmin : (0x80000000#32).toInt = -2147483648 := rfl
  rw [← BitVec.toInt_inj, hmin]
  omega

/-- The non-base steps of the recursion in closed form (R172): the multiplier reaches 0 after as many halvings as its
magnitude has bits, or a reaches 0 before. -/
def mulSteps (a b : Word) : Nat := min (Nat.size b.toInt.natAbs) (doublingsToZero a)

theorem mulSteps_eq_zero_iff (a b : Word) : mulSteps a b = 0 ↔ a = 0#32 ∨ b = 0#32 := by
  rw [← doublingsToZero_eq_zero_iff, ← size_natAbs_eq_zero_iff, mulSteps]
  omega

/-- Each branch leaves one step less. -/
theorem mulSteps_next (a b : Word) : mulSteps (doubled a) (nextMultiplier b) = mulSteps a b - 1 := by
  rw [mulSteps, mulSteps, nextMultiplier_natAbs, size_half, doublingsToZero_doubled]
  omega

theorem mulSteps_le (a b : Word) : mulSteps a b ≤ 32 := (Nat.min_le_right _ _).trans (doublingsToZero_le a)

theorem mulSteps_eq_32_iff (a b : Word) : mulSteps a b = 32 ↔ b = 0x80000000#32 ∧ a.getLsbD 0 = true := by
  have hsize := size_natAbs_le b
  have hdoublings := doublingsToZero_le a
  rw [← size_natAbs_eq_32_iff, ← doublingsToZero_eq_32_iff, mulSteps]
  omega

/-- On the base case the recursion ends at once, however many calls it has. -/
theorem mulRec_of_base {a b : Word} (h : a = 0#32 ∨ b = 0#32) (calls : Nat) : mulRec calls a b = ⟨0#32, 0⟩ := by
  cases calls with
  | zero => rfl
  | succ calls => rw [mulRec, if_pos h]

/-- The recursion takes its steps, or as many as it has calls. -/
theorem mulRec_steps (calls : Nat) (a b : Word) : (mulRec calls a b).steps = min calls (mulSteps a b) := by
  induction calls generalizing a b with
  | zero => simp [mulRec]
  | succ calls ih =>
    by_cases hbase : a = 0#32 ∨ b = 0#32
    · rw [mulRec_of_base hbase, (mulSteps_eq_zero_iff a b).2 hbase, Nat.min_zero]
    · have hpos := mt (mulSteps_eq_zero_iff a b).1 hbase
      rw [mulRec, if_neg hbase]
      simp only [ih, mulSteps_next]
      omega

/-- Given its steps, the recursion gives the product: it ends when either factor has reached 0. -/
theorem mulRec_product_of_mulSteps_le {calls : Nat} {a b : Word} (h : mulSteps a b ≤ calls) :
    (mulRec calls a b).product = a * b := by
  induction calls generalizing a b with
  | zero =>
    rcases (mulSteps_eq_zero_iff a b).1 (Nat.le_zero.1 h) with rfl | rfl <;> simp [mulRec]
  | succ calls ih =>
    by_cases hbase : a = 0#32 ∨ b = 0#32
    · rw [mulRec_of_base hbase]
      rcases hbase with rfl | rfl <;> simp
    · have hinner : mulSteps (doubled a) (nextMultiplier b) ≤ calls := by
        rw [mulSteps_next]
        omega
      rw [mulRec, if_neg hbase]
      simp only [ih hinner, doubled_mul_nextMultiplier]

/-- Given its steps, the whole run of the recursion is known, product and steps. -/
theorem mulRec_eq {calls : Nat} {a b : Word} (h : mulSteps a b ≤ calls) : mulRec calls a b = ⟨a * b, mulSteps a b⟩ := by
  rw [← mulRec_product_of_mulSteps_le h, ← Nat.min_eq_right h, ← mulRec_steps]

theorem mulRec_33_eq (a b : Word) : mulRec 33 a b = ⟨a * b, mulSteps a b⟩ :=
  mulRec_eq ((mulSteps_le a b).trans (by decide))

theorem mulRec_33_steps (a b : Word) : (mulRec 33 a b).steps = mulSteps a b := congrArg MulRun.steps (mulRec_33_eq a b)

/-- More calls than its steps change nothing in the run that multiply answers from. -/
theorem mulRec_eq_mulRec_33 {calls : Nat} {a b : Word} (h : mulSteps a b ≤ calls) : mulRec calls a b = mulRec 33 a b := by
  rw [mulRec_eq h, mulRec_33_eq]

/-! ## The loop form (R173) -/

/-- The loop adds first to last what the recursion adds last to first, in the same steps, whatever it is allowed. -/
theorem mulLoop_eq (iterations : Nat) (acc x y : Word) :
    mulLoop iterations acc x y = ⟨acc + (mulRec iterations x y).product, (mulRec iterations x y).steps⟩ := by
  induction iterations generalizing acc x y with
  | zero => simp [mulLoop, mulRec]
  | succ iterations ih =>
    rw [mulLoop, mulRec]
    split
    · simp
    · rw [ih]
      simp only [MulRun.mk.injEq, and_true]
      ring

/-! ## The shift-and-add loop (R175, R176) -/

/-- The sum of R175 over the set bits below s, and the term of bit s, is the product by y's bits up to s. -/
theorem sum_shifts_eq_mulRec (x y : Word) (s : Nat) :
    ((List.range s).filter (fun k => y.getLsbD k)).foldl (fun acc k => acc + (x <<< k)) 0#32 +
      (if y.getLsbD s then x <<< s else 0#32) = BitVec.mulRec x y s := by
  induction s with
  | zero => simp [BitVec.mulRec_zero_eq]
  | succ s ih =>
    rw [BitVec.mulRec_succ_eq, ← ih, List.range_succ, List.filter_append, List.foldl_append]
    cases h : y.getLsbD s <;> simp [h]

theorem sum_shifts_eq_mul (x y : Word) :
    ((List.range 32).filter (fun k => y.getLsbD k)).foldl (fun acc k => acc + (x <<< k)) 0#32 = x * y := by
  rw [BitVec.mul_eq_mulRec, ← sum_shifts_eq_mulRec, BitVec.getLsbD_of_ge y 32 (Nat.le_refl 32)]
  simp

/-- The loop runs once per significant bit of y, or as often as it is allowed. -/
theorem shiftAndAdd_steps (x : Word) (cap i : Nat) (y acc : Word) :
    (shiftAndAdd x cap i y acc).steps = min cap (Nat.size y.toNat) := by
  induction cap generalizing i y acc with
  | zero => simp [shiftAndAdd]
  | succ cap ih =>
    have hzero : Nat.size y.toNat = 0 ↔ y = 0#32 := by
      rw [Nat.size_eq_zero, ← BitVec.toNat_inj, BitVec.toNat_ofNat, Nat.zero_mod]
    rw [shiftAndAdd]
    split
    · next hy => rw [hzero.2 hy, Nat.min_zero]
    · next hy =>
      have hpos := mt hzero.1 hy
      have hhalf : (y >>> 1).toNat = y.toNat / 2 := by rw [BitVec.toNat_ushiftRight, Nat.shiftRight_eq_div_pow]
      simp only [ih, hhalf, size_half]
      omega

/-- Allowed an iteration per significant bit of y, the loop gives the product in exactly those. -/
theorem shiftAndAdd_eq {x y : Word} {cap : Nat} (h : Nat.size y.toNat ≤ cap) :
    shiftAndAdd x cap 0 y 0#32 = ⟨x * y, Nat.size y.toNat⟩ := by
  have hproduct : (shiftAndAdd x cap 0 y 0#32).product = x * y := by
    rw [shiftAndAdd_product x cap 0 y 0#32 (Nat.size_le.1 h), BitVec.shiftLeft_zero, BitVec.zero_add]
  rw [← hproduct, ← Nat.min_eq_right h, ← shiftAndAdd_steps x cap 0 y 0#32]

/-! ## The statements -/

/-- Settles O30: the function is the model's own, which takes one branch of the rule at each call. -/
theorem multiplyFollowsTheRecursion : Obligations.MultiplyFollowsTheRecursion := by
  refine ⟨decode_encode .multiply, mulResult, exec_multiply, fun a b => ?_⟩
  split_ifs with hbase heven hpos
  · exact mulResult_eq_zero_of_base hbase
  · exact mulResult_of_even heven
  · exact mulResult_of_odd_pos heven hpos
  · exact mulResult_of_odd_neg heven hpos

/-- Settles O31: both wrapped products are the product of the words. -/
theorem multiplyIsTheWrappedProduct : Obligations.MultiplyIsTheWrappedProduct :=
  fun s => ⟨exec_eq_answer .multiply s, (ofInt_toInt_mul_toInt _ _).trans (ofNat_toNat_mul_toNat _ _).symm⟩

/-- Settles O32: the steps in closed form, and the whole run given no fewer calls. -/
theorem multiplyTerminatesInTheCountedSteps : Obligations.MultiplyTerminatesInTheCountedSteps := by
  intro a b
  rw [mulRec_33_steps]
  refine ⟨?answer, fun _ => mulRec_eq_mulRec_33, fun calls h => ?short, (mulSteps_eq_zero_iff a b).2,
    fun z _ hz hbit hlow => ?counted, mulSteps_le a b, mulSteps_eq_32_iff a b, fun hpos => ?positive⟩
  case answer =>
    rintro s rfl rfl
    exact exec_multiply s
  case short => rw [mulRec_steps, Nat.min_eq_left h.le]
  case counted => rw [mulSteps, doublingsToZero_of_trailing_zeros hz hbit hlow]
  case positive =>
    have hne : mulSteps a b ≠ 32 := fun h => by
      rw [((mulSteps_eq_32_iff a b).1 h).1] at hpos
      exact absurd hpos (by decide)
    have hle := mulSteps_le a b
    omega

/-- Settles O33: the loop accumulates from 0 what the recursion returns, which does not depend on the iterations. -/
theorem multiplyLoopGivesTheSameResult : Obligations.MultiplyLoopGivesTheSameResult := by
  intro s iterations h
  rw [mulRec_33_steps] at h
  have hloop : mulLoop iterations 0#32 s.ports.a s.ports.b = mulRec 33 s.ports.a s.ports.b := by
    rw [mulLoop_eq, mulRec_eq_mulRec_33 h, BitVec.zero_add]
  exact ⟨hloop, by rw [hloop]; exact exec_multiply s⟩

/-- Settles O34: the sum over the set bits is the wrapped product that the rule's guarded response holds. -/
theorem multiplyUnsignedShiftsAndAdds : Obligations.MultiplyUnsignedShiftsAndAdds := by
  refine ⟨decode_encode .multiplyUnsigned, fun s => ?_⟩
  obtain ⟨hnonneg, hnegative⟩ := exec_of_guarded_operands (i := .multiplyUnsigned) (s := s) rfl
  refine ⟨fun ha hb => ?_, fun hneg => hnegative (by omega)⟩
  rw [sum_shifts_eq_mul, ← ofNat_toNat_mul_toNat]
  exact hnonneg ⟨ha, hb⟩

/-- Settles O35: both answers are the product of the words, which the loop gives in y's significant bits. -/
theorem multiplyUnsignedAgreesWithMultiply : Obligations.MultiplyUnsignedAgreesWithMultiply := by
  intro x y c hx hy
  refine ⟨yields_of_resultOf (if_pos ⟨hx, hy⟩), yields_of_resultOf ?signed, fun cap hcap => ?loop, ?integer⟩
  case signed => rw [resultOf, toInt_mul_toInt_of_nonneg hx hy, BitVec.ofInt_natCast]
  case loop => rw [shiftAndAdd_eq hcap, ofNat_toNat_mul_toNat]
  case integer => rw [toInt_mul_toInt_of_nonneg hx hy, ofNat_toInt_eq_iff]

end Sys2Proof.Proofs
end

section
/-! SUPPORT. The statements of the bit counting (45_bit_counting.md): how many positions a count can reach, the number of bits of
a nonnegative word as its least exponent, and from these the statements themselves. -/

namespace Sys2Proof.Proofs

open Sys2Proof.Machine Sys2Proof.Safety

/-! ## Counts of positions (R200, R201) -/

theorem countPositions_le (p : Nat → Bool) : countPositions p ≤ 32 :=
  (List.length_filter_le p _).trans_eq List.length_range

theorem countPositions_eq_32_iff (p : Nat → Bool) : countPositions p = 32 ↔ ∀ k < 32, p k = true := by
  have hall : countPositions p = (List.range 32).length ↔ ∀ k ∈ List.range 32, p k = true :=
    List.length_filter_eq_length_iff
  simpa only [List.length_range, List.mem_range] using hall

theorem countPositions_eq_zero_iff (p : Nat → Bool) : countPositions p = 0 ↔ ∀ k < 32, p k = false := by
  simp only [countPositions, List.length_eq_zero_iff, List.filter_eq_nil_iff, List.mem_range, Bool.not_eq_true]

/-- All 32 positions of a word are set only in the word of all ones (R200). -/
theorem countPositions_getLsbD_eq_32_iff (a : Word) : countPositions (fun k => a.getLsbD k) = 32 ↔ a = 0xFFFFFFFF#32 := by
  have hones {k : Nat} (hk : k < 32) : (0xFFFFFFFF#32).getLsbD k = true :=
    BitVec.getLsbD_allOnes.trans (decide_eq_true hk)
  rw [countPositions_eq_32_iff]
  constructor
  · exact fun h => BitVec.eq_of_getLsbD_eq fun k hk => (h k hk).trans (hones hk).symm
  · rintro rfl k hk
    exact hones hk

/-- Words that differ at no position are equal (R201). -/
theorem countPositions_bne_eq_zero_iff (a b : Word) :
    countPositions (fun k => a.getLsbD k != b.getLsbD k) = 0 ↔ a = b := by
  rw [countPositions_eq_zero_iff]
  constructor
  · exact fun h => BitVec.eq_of_getLsbD_eq fun k hk => bne_eq_false_iff_eq.1 (h k hk)
  · rintro rfl k _
    exact bne_self_eq_false _

theorem countPositions_bne_comm (a b : Word) :
    countPositions (fun k => a.getLsbD k != b.getLsbD k) = countPositions (fun k => b.getLsbD k != a.getLsbD k) := by
  simp only [bne_comm]

/-! ## The least exponent (R202) -/

theorem toInt_eq_toNat_of_nonneg {v : Word} (hv : 0 ≤ v.toInt) : v.toInt = v.toNat := by
  have := BitVec.toInt_eq_toNat_cond v
  omega

/-- The number of bits of a nonnegative word is at most 31, so the bounded search is never cut short (R202). -/
theorem size_toNat_le {v : Word} (hv : 0 ≤ v.toInt) : Nat.size v.toNat ≤ 31 := by
  have hint := toInt_eq_toNat_of_nonneg hv
  have hlt := BitVec.toInt_lt (x := v)
  exact Nat.size_le.2 (by omega)

/-- Where there is an exponent in [0, 31] above n, the least one is the number of bits of n. -/
theorem leastLength_eq_size {n : Nat} (hn : Nat.size n ≤ 31) : leastLength n = Nat.size n := by
  have hfirst : (List.range 32).find? (fun k => decide (n < 2 ^ k)) = some (Nat.size n) := by
    rw [List.find?_range_eq_some]
    refine ⟨decide_eq_true (Nat.lt_size_self n), List.mem_range.2 (Nat.lt_succ_of_le hn), fun j hj => ?_⟩
    have hfits : 2 ^ j ≤ n := Nat.lt_size.1 hj
    simpa using hfits
  rw [leastLength, hfirst, Option.getD_some]

/-! ## The statements -/

/-- Settles O36: the count of the rule, over the bits of A. -/
theorem countSetBitsCountsThePositions : Obligations.CountSetBitsCountsThePositions :=
  ⟨decode_encode .countSetBits, fun s =>
    ⟨_, exec_eq_answer .countSetBits s, rfl, countPositions_le _, countPositions_getLsbD_eq_32_iff _⟩⟩

/-- Settles O37: the count of the rule, over the differences, which are those of the exchanged operands. -/
theorem bitsDiffIsTheHammingDistance : Obligations.BitsDiffIsTheHammingDistance := by
  refine ⟨decode_encode .bitsDiff, fun s =>
    ⟨_, exec_eq_answer .bitsDiff s, rfl, countPositions_le _, countPositions_bne_eq_zero_iff _ _, fun c => ?_⟩⟩
  rw [countPositions_bne_comm]
  exact yields_of_resultOf rfl

/-- Settles O38: on nonnegative A the rule's answer is the number of bits of A. -/
theorem bitLengthIsTheLeastExponent : Obligations.BitLengthIsTheLeastExponent := by
  refine ⟨decode_encode .bitLength, fun s => ?_⟩
  obtain ⟨hnonneg, hnegative⟩ := exec_of_guarded_operands (i := .bitLength) (s := s) rfl
  refine ⟨fun ha => ?_, fun ha => hnegative (not_le.2 ha)⟩
  have hsize := size_toNat_le ha
  refine ⟨Nat.size s.ports.a.toNat, hsize, leastLength_eq_size hsize ▸ hnonneg ha, ?_⟩
  rw [toInt_eq_toNat_of_nonneg ha]
  exact ⟨mod_cast Nat.lt_size_self _, fun j hj => mod_cast Nat.lt_size.1 hj⟩

end Sys2Proof.Proofs
end

section
/-! SUPPORT. The statements of the full adder (46_full_adder.md): the bits of the accumulated sum, the wrapped sums of the readings
of two words, and from these the statements themselves. -/

namespace Sys2Proof.Proofs

open Sys2Proof.Machine Sys2Proof.Safety

/-! ## The rippled sum (R220) -/

theorem exec_fullAdder (s : State) :
    exec .fullAdder s = .next (s.answer (.ok (adderResult s.ports.a s.ports.b))) := rfl

/-- Over all 32 positions every bit of the result is a sum bit. -/
theorem adderResult_getLsbD (a b : Word) {k : Nat} (hk : k < 32) :
    (adderResult a b).getLsbD k = sumBit (a.getLsbD k) (b.getLsbD k) (carryInto a b k) := by
  have hreached : decide (k < Config.width) = true := decide_eq_true hk
  rw [adderResult, rippleSum_getLsbD _ _ _ hk, hreached, Bool.true_and]

/-! ## The wrapped sums (R221) -/

theorem ofNat_toNat_add_toNat (a b : Word) : BitVec.ofNat 32 (a.toNat + b.toNat) = a + b := by
  rw [BitVec.ofNat_add, BitVec.ofNat_toNat, BitVec.ofNat_toNat, BitVec.setWidth_eq, BitVec.setWidth_eq]

theorem ofInt_toInt_add_toInt (a b : Word) : BitVec.ofInt 32 (a.toInt + b.toInt) = a + b := by
  rw [BitVec.ofInt_add, BitVec.ofInt_toInt, BitVec.ofInt_toInt]

/-! ## The statements -/

/-- Settles O39: the carries are the adder's own, which the accumulated sum bits read. -/
theorem fullAdderRipplesTheCarry : Obligations.FullAdderRipplesTheCarry :=
  ⟨decode_encode .fullAdder, fun s =>
    ⟨_, carryInto s.ports.a s.ports.b, exec_fullAdder s, rfl, fun _ hk => ⟨adderResult_getLsbD _ _ hk, rfl⟩⟩⟩

/-- Settles O40: the rippled sum is the sum of the words, and both wrapped sums are too. -/
theorem fullAdderIsNativeAddition : Obligations.FullAdderIsNativeAddition :=
  fun s => ⟨adderResult_eq _ _ ▸ exec_fullAdder s, (ofNat_toNat_add_toNat _ _).symm, (ofInt_toInt_add_toInt _ _).symm⟩

/-- Settles O41: the truth table of one position (R222), and the row that tells the two groupings apart. -/
theorem carryOutIsTheMajority : Obligations.CarryOutIsTheMajority :=
  ⟨by decide, by decide, by decide⟩

end Sys2Proof.Proofs
end

section
/-! SUPPORT. The statements of the exceptions (60_exceptions.md): the cause of each fault as a property of the rules' closed
forms, what the host's next event does to the unit, and from these the statements themselves. -/

namespace Sys2Proof.Proofs

open Sys2Proof.Machine Sys2Proof.Safety

/-! ## The causes of the faults (R242, R243) -/

/-- An operation answers exactly the response of its rule, and no other. -/
theorem exec_eq_answer_iff (i : Instr) (s : State) (r : Response) :
    exec i s = .next (s.answer r) ↔ resultOf i s.ports.a s.ports.b s.ports.c = r := by
  rw [exec_eq_answer, Host.Outcome.next.injEq, State.answer_inj]

/-- A guarded result is a fault exactly when the guard fails, and the fault is the guard's own. -/
theorem guarded_eq_fault_iff (P : Prop) [Decidable P] (v : Word) (code code' : FaultCode) :
    guarded P v code = .fault code' ↔ ¬ P ∧ code = code' := by
  rw [guarded]
  split
  · next hP => simp [hP]
  · next hP => simp [hP]

theorem not_legalPosition_iff (b : Word) : ¬ LegalPosition b ↔ IllegalPosition b := by omega

theorem getLsbD_last_iff (v : Word) : v.getLsbD 31 = true ↔ v.toInt < 0 := isNegative_iff v

/-- The operations whose rule is guarded by the position are the five accessors (R242). -/
theorem resultOf_eq_invalidPosition_iff (i : Instr) (a b c : Word) :
    resultOf i a b c = .fault .invalidPosition ↔
      (i = .getBit ∨ i = .setBit ∨ i = .clearBit ∨ i = .updateBit ∨ i = .toggleBit) ∧ IllegalPosition b := by
  cases i with
  | getBit | setBit | clearBit | updateBit | toggleBit =>
    rw [resultOf, guarded_eq_fault_iff, not_legalPosition_iff]
    simp
  | multiplyUnsigned | bitLength =>
    rw [resultOf, guarded_eq_fault_iff]
    simp
  | _ => simp [resultOf]

/-- The operations whose rule is guarded by a sign are multiplyUnsigned and bitLength (R243). -/
theorem resultOf_eq_negativeOperand_iff (i : Instr) (a b c : Word) :
    resultOf i a b c = .fault .negativeOperand ↔
      (i = .multiplyUnsigned ∧ (a.getLsbD 31 = true ∨ b.getLsbD 31 = true)) ∨
        (i = .bitLength ∧ a.getLsbD 31 = true) := by
  rw [getLsbD_last_iff, getLsbD_last_iff]
  cases i with
  | getBit | setBit | clearBit | updateBit | toggleBit =>
    rw [resultOf, guarded_eq_fault_iff]
    simp
  | multiplyUnsigned =>
    rw [resultOf, guarded_eq_fault_iff, not_and_or, not_le, not_le]
    simp
  | bitLength =>
    rw [resultOf, guarded_eq_fault_iff, not_le]
    simp
  | _ => simp [resultOf]

/-! ## The events of the host (R245, R275, R276) -/

/-- Every event but a command with unheld ports leads to a next state. -/
theorem takeEvent_next_or_unheld (e : HostEvent) (s : State) :
    (∃ t, takeEvent e s = .next t) ∨ ∃ r, e = .commandUnheld r ∧ takeEvent e s = .refused .portsNotHeld := by
  cases e with
  | command r => exact .inl ⟨_, issue_eq_answer r s⟩
  | reset => exact .inl ⟨_, rfl⟩
  | commandReset r => exact .inl ⟨_, rfl⟩
  | commandUnheld r => exact .inr ⟨r, rfl, rfl⟩

/-! ## The statements -/

/-- Settles O10: an idle step has a next state, and so has a step at every event but one. -/
theorem onlyUnheldPortsStopTheUnit : Obligations.OnlyUnheldPortsStopTheUnit := by
  intro s
  cases hhost : s.host with
  | nil => exact .inl ⟨_, step_idle hhost⟩
  | cons e rest =>
    rw [step_event hhost]
    refine (takeEvent_next_or_unheld e _).imp_right ?_
    rintro ⟨r, rfl, hrefused⟩
    exact ⟨r, rest, rfl, hrefused⟩

/-- Settles O20: exec answers the response of the rule, whose guard on the position the five accessors have alone. -/
theorem invalidPositionHasOneCause : Obligations.InvalidPositionHasOneCause :=
  ⟨statusWord_invalidPosition, fun i s =>
    (exec_eq_answer_iff i s _).trans (resultOf_eq_invalidPosition_iff i _ _ _)⟩

/-- Settles O21: exec answers the response of the rule, whose guard on a sign multiplyUnsigned and bitLength have alone. -/
theorem negativeOperandHasTwoCauses : Obligations.NegativeOperandHasTwoCauses :=
  ⟨statusWord_negativeOperand, fun i s =>
    (exec_eq_answer_iff i s _).trans (resultOf_eq_negativeOperand_iff i _ _ _)⟩

/-- Settles O46: the step at a command is its transaction, which answers the closed form of the rules. -/
theorem stepAnswersAsTheRulesSay : Obligations.StepAnswersAsTheRulesSay := fun _ _ _ => step_command

/-- Settles O4: the step takes the command, and a legal command is exec of its operation on the request. -/
theorem stepRunsTheDecodedCommand : Obligations.StepRunsTheDecodedCommand := by
  intro s r rest i hhost hdecode
  rw [step_event hhost, takeEvent, issue_legal hdecode]
  rfl

end Sys2Proof.Proofs
end

section
/-! SUPPORT. The statements of reset and hazards (70_reset_and_hazards.md): the step at each of the two resets, and from these
and the step at a command the statements themselves. -/

namespace Sys2Proof.Proofs

open Sys2Proof.Machine Sys2Proof.Safety

/-! ## The step at a reset (R270, R271) -/

/-- Everything a step at a reset with no command in progress can do: it leaves the outputs without a response (R272). -/
theorem step_reset {s : State} {rest : List HostEvent} (h : s.host = .reset :: rest) :
    step s = .next ({ s.tick with host := rest } : State).resetOutputs := by
  rw [step_event h, takeEvent]

/-- Everything a step at a command cut off by reset can do: the command is issued, and abandoned in place of its answer. -/
theorem step_commandReset {s : State} {r : Request} {rest : List HostEvent} (h : s.host = .commandReset r :: rest) :
    step s = .next (atIssue s r rest).abandon := by
  rw [step_event h, takeEvent]
  rfl

/-! ## The statements -/

/-- Settles O8: the step abandons the command, and the response of the reissued command, as of the uninterrupted one, is
what the rules give the request. -/
theorem commandCutOffByResetMayBeReissued : Obligations.CommandCutOffByResetMayBeReissued := by
  refine ⟨fun s r rest hcut => step_commandReset hcut, fun s r rest hcut => ?_⟩
  have hreissued : (atIssue s r (.command r :: rest)).abandon.host = .command r :: rest := rfl
  exact ⟨_, _, _, step_commandReset hcut, State.abandon_response _, step_command hreissued, step_command rfl, rfl,
    Option.some_ne_none (responseOf r)⟩

/-- Settles O5: an idle step moves on the free values alone. -/
theorem idleStepChangesNothing : Obligations.IdleStepChangesNothing := fun _ => step_idle

/-- Settles O7: the step at a reset takes the event and clears the response. -/
theorem resetEventLeavesNoResponse : Obligations.ResetEventLeavesNoResponse := fun _ _ => step_reset

end Sys2Proof.Proofs
end

section
/-! SUPPORT. The statements about the step as the model's own bookkeeping: the host's list, the counter of free values and the
record (logs 1, 5 and 8) through an event and a step, and the refusal of unheld ports (log 7). -/

namespace Sys2Proof.Proofs

open Sys2Proof.Machine

/-! ## The frame of an event -/

/-- Everything an event can do to the bookkeeping: the record stays, or grows by an answered or by an abandoned command. -/
theorem takeEvent_frame {e : HostEvent} {s t : State} (h : takeEvent e s = .next t) :
    t.host = s.host ∧ t.freeIndex = s.freeIndex ∧ (t.record = s.record ∨ ∃ x, t.record = s.record ++ [x]) := by
  cases e with
  | command r =>
    rw [takeEvent, issue_eq_answer] at h
    cases h
    exact ⟨rfl, rfl, .inr ⟨_, State.answer_record _ _⟩⟩
  | reset =>
    cases h
    exact ⟨rfl, rfl, .inl rfl⟩
  | commandReset r =>
    cases h
    exact ⟨rfl, rfl, .inr ⟨_, State.abandon_record _⟩⟩
  | commandUnheld r => cases h

/-! ## The statements -/

/-- Settles O11: an idle step only ticks, and any other step ticks, takes the first event and keeps the frame of that event. -/
theorem stepTakesOneEvent : Obligations.StepTakesOneEvent := by
  intro s t hstep
  cases hhost : s.host with
  | nil =>
    rw [step_idle hhost] at hstep
    cases hstep
    exact ⟨hhost, s.tick_freeIndex, .inl s.tick_record⟩
  | cons e rest =>
    rw [step_event hhost] at hstep
    exact takeEvent_frame hstep

/-- Settles O9: the step takes the event, which is refused. -/
theorem unheldPortsAreRefused : Obligations.UnheldPortsAreRefused := by
  intro s r rest hhost
  rw [step_event hhost, takeEvent]

end Sys2Proof.Proofs
end
